-- ==== Sys2Proof/Word.lean ====
section
/-! DEFINITION. The widths of the machine's values (spec/00_scope.md R5, R16): all unsigned. -/

namespace Sys2Proof

/-- A general register, a memory byte, an 8-bit immediate `nn`. -/
abbrev Byte := BitVec 8

/-- `pc`, `I`, a stack slot, a 16-bit opcode. -/
abbrev Word16 := BitVec 16

/-- The 12-bit address field `nnn` (R91). -/
abbrev Addr12 := BitVec 12

/-- The 4-bit register field `x` or `y`: all 16 values name a register (R22, R93). -/
abbrev RegIdx := BitVec 4

/-- The 4-bit field `d`, an operation selector or the sprite length `n` (R91, R93). -/
abbrev Nibble := BitVec 4

end Sys2Proof
end

