-- ==== Sys2Proof/Machine/Flags.lean ====
section
/-! DEFINITION. Every value the flags register `VF` can receive as a side effect (spec/10_state.md R23). Each is the byte
0 or 1. Operands are the old register values (43_alu.md R191). -/

namespace Sys2Proof.Machine

/-- A flag write stores `0x00` or `0x01` (R23). -/
def flagByte (b : Bool) : Byte := if b then 1 else 0

/-- `ADD Vx, Vy`: 1 if `a + b > 255` (R196). -/
def carryFlag (a b : Byte) : Byte := flagByte (decide (a.toNat + b.toNat > 255))

/-- `SUB Vx, Vy`: 1 if `a < b`, a borrow occurred (R197, the spec's decision D7). -/
def borrowFlag (a b : Byte) : Byte := flagByte (decide (a.toNat < b.toNat))

/-- `SUBN Vx, Vy`: 0 if `b < a`, else 1: no borrow occurred (R199, the spec's decision D7). -/
def noBorrowFlag (a b : Byte) : Byte := flagByte (!decide (b.toNat < a.toNat))

/-- `SHR Vx, Vy`: `b[0]`, the bit shifted out (R198). -/
def shiftedOutRight (b : Byte) : Byte := flagByte (b.getLsbD 0)

/-- `SHL Vx, Vy`: `b[7]`, the bit shifted out (R200). -/
def shiftedOutLeft (b : Byte) : Byte := flagByte (b.getLsbD 7)

/-- `DRW Vx, Vy, n`: 1 if the draw reported a collision (R250). -/
def collisionFlag (collision : Bool) : Byte := flagByte collision

end Sys2Proof.Machine
end

