-- ==== Sys2Proof/Syntax.lean ====
section
/-! DEFINITION. The instruction set as syntax: one constructor per row of spec/opcode_table.json (30_encoding.md R100).
The baseline has the first 22 rows; `drw` exists only when `DRAW_OPCODE = true` (00_scope.md R8), which
WellFormed.lean checks. -/

namespace Sys2Proof

inductive Instr where
  | halt                                   -- 0x0000  HALT
  | ret                                    -- 0x00EE  RET
  | jp (nnn : Addr12)                      -- 0x1nnn  JP nnn
  | call (nnn : Addr12)                    -- 0x2nnn  CALL nnn
  | seImm (x : RegIdx) (nn : Byte)         -- 0x3xnn  SE Vx, nn
  | sneImm (x : RegIdx) (nn : Byte)        -- 0x4xnn  SNE Vx, nn
  | seReg (x y : RegIdx)                   -- 0x5xy0  SE Vx, Vy
  | ldImm (x : RegIdx) (nn : Byte)         -- 0x6xnn  LD Vx, nn
  | addImm (x : RegIdx) (nn : Byte)        -- 0x7xnn  ADD Vx, nn
  | ldReg (x y : RegIdx)                   -- 0x8xy0  LD Vx, Vy
  | orReg (x y : RegIdx)                   -- 0x8xy1  OR Vx, Vy
  | andReg (x y : RegIdx)                  -- 0x8xy2  AND Vx, Vy
  | xorReg (x y : RegIdx)                  -- 0x8xy3  XOR Vx, Vy
  | addReg (x y : RegIdx)                  -- 0x8xy4  ADD Vx, Vy
  | sub (x y : RegIdx)                     -- 0x8xy5  SUB Vx, Vy
  | shr (x y : RegIdx)                     -- 0x8xy6  SHR Vx, Vy
  | subn (x y : RegIdx)                    -- 0x8xy7  SUBN Vx, Vy
  | shl (x y : RegIdx)                     -- 0x8xyE  SHL Vx, Vy
  | sneReg (x y : RegIdx)                  -- 0x9xy0  SNE Vx, Vy
  | ldI (nnn : Addr12)                     -- 0xAnnn  LD I, nnn
  | jpV0 (nnn : Addr12)                    -- 0xBnnn  JP V0, nnn
  | rnd (x : RegIdx) (nn : Byte)           -- 0xCxnn  RND Vx, nn
  | drw (x y : RegIdx) (n : Nibble)        -- 0xDxyn  DRW Vx, Vy, n
  deriving DecidableEq, Repr

end Sys2Proof
end

