-- ==== Sys2Proof/WellFormed.lean ====
section
/-! DEFINITION. When an instruction exists. The operand fields need no check: their types hold exactly the values the
encoding admits (30_encoding.md R93). What remains is the configuration: the row `DRW` exists only when
`DRAW_OPCODE = true` (00_scope.md R8, 30_encoding.md R100). -/

namespace Sys2Proof

/-- `wellFormed drawOpcode i`: instruction `i` belongs to the instruction set of the configuration `drawOpcode`. -/
def wellFormed (drawOpcode : Bool) : Instr → Bool
  | .halt => true
  | .ret => true
  | .jp _ => true
  | .call _ => true
  | .seImm _ _ => true
  | .sneImm _ _ => true
  | .seReg _ _ => true
  | .ldImm _ _ => true
  | .addImm _ _ => true
  | .ldReg _ _ => true
  | .orReg _ _ => true
  | .andReg _ _ => true
  | .xorReg _ _ => true
  | .addReg _ _ => true
  | .sub _ _ => true
  | .shr _ _ => true
  | .subn _ _ => true
  | .shl _ _ => true
  | .sneReg _ _ => true
  | .ldI _ => true
  | .jpV0 _ => true
  | .rnd _ _ => true
  | .drw _ _ _ => drawOpcode

end Sys2Proof
end

