-- ==== Sys2Proof/Decode.lean ====
section
/-! DEFINITION. Decoding and encoding (spec/30_encoding.md). Fields are pulled out here once (R91); every opcode value
either selects one row of R100 or is rejected by name (R104). A digit written in a pattern must match (R103). -/

namespace Sys2Proof

/-! ## Byte order -/

/-- R62: big-endian, `byte0 << 8 | byte1`: the byte at the lower address is the high byte. -/
def composeOpcode (byte0 byte1 : Byte) : Word16 := byte0 ++ byte1

/-- The two bytes of an opcode as memory holds them, lower address first (R62). -/
def opcodeBytes (op : Word16) : List Byte := [op.extractLsb' 8 8, op.extractLsb' 0 8]

/-! ## Fields (R91) -/

def fieldGroup (op : Word16) : Nibble := op.extractLsb' 12 4
def fieldX (op : Word16) : RegIdx := op.extractLsb' 8 4
def fieldY (op : Word16) : RegIdx := op.extractLsb' 4 4
def fieldD (op : Word16) : Nibble := op.extractLsb' 0 4
def fieldNn (op : Word16) : Byte := op.extractLsb' 0 8
def fieldNnn (op : Word16) : Addr12 := op.extractLsb' 0 12

/-! ## Formats (R92, R110) -/

def formatA (group : Nibble) (nnn : Addr12) : Word16 := group ++ nnn
def formatI (group : Nibble) (x : RegIdx) (nn : Byte) : Word16 := group ++ (x ++ nn)
def formatR (group : Nibble) (x y : RegIdx) (d : Nibble) : Word16 := group ++ (x ++ (y ++ d))

/-! ## Decoder -/

/-- Why decoding gives no instruction. `truncated`: fewer than two bytes are left (never in a step, whose fetch reads
two). `unimplemented op`: no row of R100 matches `op` (R104). -/
inductive DecodeError where
  | truncated
  | unimplemented (op : Word16)
  deriving DecidableEq, Repr

/-- Group 0: both rows are written in full (R102, R103). -/
def decodeGroup0 (op : Word16) : Except DecodeError Instr :=
  if op = 0x0000#16 then .ok .halt
  else if op = 0x00EE#16 then .ok .ret
  else .error (.unimplemented op)

/-- Group 8: `d` selects the operation (R102, 43_alu.md R190). -/
def decodeGroup8 (op : Word16) : Except DecodeError Instr :=
  if fieldD op = 0x0#4 then .ok (.ldReg (fieldX op) (fieldY op))
  else if fieldD op = 0x1#4 then .ok (.orReg (fieldX op) (fieldY op))
  else if fieldD op = 0x2#4 then .ok (.andReg (fieldX op) (fieldY op))
  else if fieldD op = 0x3#4 then .ok (.xorReg (fieldX op) (fieldY op))
  else if fieldD op = 0x4#4 then .ok (.addReg (fieldX op) (fieldY op))
  else if fieldD op = 0x5#4 then .ok (.sub (fieldX op) (fieldY op))
  else if fieldD op = 0x6#4 then .ok (.shr (fieldX op) (fieldY op))
  else if fieldD op = 0x7#4 then .ok (.subn (fieldX op) (fieldY op))
  else if fieldD op = 0xE#4 then .ok (.shl (fieldX op) (fieldY op))
  else .error (.unimplemented op)

/-- R102, the map by group, for the configuration `drawOpcode`. -/
def decodeOpcode (drawOpcode : Bool) (op : Word16) : Except DecodeError Instr :=
  if fieldGroup op = 0x0#4 then decodeGroup0 op
  else if fieldGroup op = 0x1#4 then .ok (.jp (fieldNnn op))
  else if fieldGroup op = 0x2#4 then .ok (.call (fieldNnn op))
  else if fieldGroup op = 0x3#4 then .ok (.seImm (fieldX op) (fieldNn op))
  else if fieldGroup op = 0x4#4 then .ok (.sneImm (fieldX op) (fieldNn op))
  else if fieldGroup op = 0x5#4 then
    if fieldD op = 0x0#4 then .ok (.seReg (fieldX op) (fieldY op)) else .error (.unimplemented op)
  else if fieldGroup op = 0x6#4 then .ok (.ldImm (fieldX op) (fieldNn op))
  else if fieldGroup op = 0x7#4 then .ok (.addImm (fieldX op) (fieldNn op))
  else if fieldGroup op = 0x8#4 then decodeGroup8 op
  else if fieldGroup op = 0x9#4 then
    if fieldD op = 0x0#4 then .ok (.sneReg (fieldX op) (fieldY op)) else .error (.unimplemented op)
  else if fieldGroup op = 0xA#4 then .ok (.ldI (fieldNnn op))
  else if fieldGroup op = 0xB#4 then .ok (.jpV0 (fieldNnn op))
  else if fieldGroup op = 0xC#4 then .ok (.rnd (fieldX op) (fieldNn op))
  else if fieldGroup op = 0xD#4 then
    if drawOpcode then .ok (.drw (fieldX op) (fieldY op) (fieldD op)) else .error (.unimplemented op)
  else .error (.unimplemented op)

/-- The decoder on a byte sequence: one instruction and the bytes after it. -/
def decode (drawOpcode : Bool) : List Byte → Except DecodeError (Instr × List Byte)
  | byte0 :: byte1 :: rest =>
    match decodeOpcode drawOpcode (composeOpcode byte0 byte1) with
    | .ok i => .ok (i, rest)
    | .error e => .error e
  | [_] => .error .truncated
  | [] => .error .truncated

/-- The host's question: what the decoder reads from the opcode `w` (the word's bits as spec/opcode_table.json numbers
them), laid out as memory holds it. `DRAW_OPCODE = true`, the configuration in which every row of the table exists. -/
def decodeTableWord (nbits w : Nat) : Option Instr :=
  match decode true (opcodeBytes (BitVec.ofNat 16 (w % 2 ^ nbits))) with
  | .ok (i, _) => some i
  | .error _ => none

/-! ## Encoder -/

/-- R110: the opcode of an instruction, by the format of its row (R92, R100). -/
def encode : Instr → Word16
  | .halt => 0x0000#16
  | .ret => 0x00EE#16
  | .jp nnn => formatA 0x1 nnn
  | .call nnn => formatA 0x2 nnn
  | .seImm x nn => formatI 0x3 x nn
  | .sneImm x nn => formatI 0x4 x nn
  | .seReg x y => formatR 0x5 x y 0x0
  | .ldImm x nn => formatI 0x6 x nn
  | .addImm x nn => formatI 0x7 x nn
  | .ldReg x y => formatR 0x8 x y 0x0
  | .orReg x y => formatR 0x8 x y 0x1
  | .andReg x y => formatR 0x8 x y 0x2
  | .xorReg x y => formatR 0x8 x y 0x3
  | .addReg x y => formatR 0x8 x y 0x4
  | .sub x y => formatR 0x8 x y 0x5
  | .shr x y => formatR 0x8 x y 0x6
  | .subn x y => formatR 0x8 x y 0x7
  | .shl x y => formatR 0x8 x y 0xE
  | .sneReg x y => formatR 0x9 x y 0x0
  | .ldI nnn => formatA 0xA nnn
  | .jpV0 nnn => formatA 0xB nnn
  | .rnd x nn => formatI 0xC x nn
  | .drw x y n => formatR 0xD x y n

/-! ## The opcode map as the spec prints it (R100) -/

/-- One row of R100: the opcode `op` selects it if and only if `op & mask == match` (here `op &&& mask = pattern`). -/
structure OpcodeRow where
  pattern : Word16
  mask : Word16
  deriving DecidableEq, Repr

/-- The condition under which an opcode selects a row (R100). -/
abbrev selectsRow (op : Word16) (row : OpcodeRow) : Prop := op &&& row.mask = row.pattern

/-- The row of R100 that an instruction belongs to. -/
def rowOf : Instr → OpcodeRow
  | .halt => ⟨0x0000, 0xFFFF⟩
  | .ret => ⟨0x00EE, 0xFFFF⟩
  | .jp _ => ⟨0x1000, 0xF000⟩
  | .call _ => ⟨0x2000, 0xF000⟩
  | .seImm _ _ => ⟨0x3000, 0xF000⟩
  | .sneImm _ _ => ⟨0x4000, 0xF000⟩
  | .seReg _ _ => ⟨0x5000, 0xF00F⟩
  | .ldImm _ _ => ⟨0x6000, 0xF000⟩
  | .addImm _ _ => ⟨0x7000, 0xF000⟩
  | .ldReg _ _ => ⟨0x8000, 0xF00F⟩
  | .orReg _ _ => ⟨0x8001, 0xF00F⟩
  | .andReg _ _ => ⟨0x8002, 0xF00F⟩
  | .xorReg _ _ => ⟨0x8003, 0xF00F⟩
  | .addReg _ _ => ⟨0x8004, 0xF00F⟩
  | .sub _ _ => ⟨0x8005, 0xF00F⟩
  | .shr _ _ => ⟨0x8006, 0xF00F⟩
  | .subn _ _ => ⟨0x8007, 0xF00F⟩
  | .shl _ _ => ⟨0x800E, 0xF00F⟩
  | .sneReg _ _ => ⟨0x9000, 0xF00F⟩
  | .ldI _ => ⟨0xA000, 0xF000⟩
  | .jpV0 _ => ⟨0xB000, 0xF000⟩
  | .rnd _ _ => ⟨0xC000, 0xF000⟩
  | .drw _ _ _ => ⟨0xD000, 0xF000⟩

/-- The rows of R100 in the source's order: 22 in the baseline, and `DRW` when `DRAW_OPCODE = true` (R8). -/
def opcodeTable (drawOpcode : Bool) : List OpcodeRow :=
  [⟨0x0000, 0xFFFF⟩, ⟨0x00EE, 0xFFFF⟩, ⟨0x1000, 0xF000⟩, ⟨0x2000, 0xF000⟩, ⟨0x3000, 0xF000⟩, ⟨0x4000, 0xF000⟩,
   ⟨0x5000, 0xF00F⟩, ⟨0x6000, 0xF000⟩, ⟨0x7000, 0xF000⟩] ++
  [⟨0x8000, 0xF00F⟩, ⟨0x8001, 0xF00F⟩, ⟨0x8002, 0xF00F⟩, ⟨0x8003, 0xF00F⟩, ⟨0x8004, 0xF00F⟩, ⟨0x8005, 0xF00F⟩,
   ⟨0x8006, 0xF00F⟩, ⟨0x8007, 0xF00F⟩, ⟨0x800E, 0xF00F⟩] ++
  [⟨0x9000, 0xF00F⟩, ⟨0xA000, 0xF000⟩, ⟨0xB000, 0xF000⟩, ⟨0xC000, 0xF000⟩] ++
  (if drawOpcode then [⟨0xD000, 0xF000⟩] else [])

end Sys2Proof
end

