-- ==== Sys2Proof/Config.lean ====
section
/-! DEFINITION. What the core takes from outside and no rule fixes. `DRAW_OPCODE` is in State (log entry 4), and
`FG_COLOR`, `BG_COLOR`, `LOAD_BASE`, `StepBudget` are arguments of the host operations that use them (00_scope.md R7). -/

namespace Sys2Proof

/-- FREE VALUE. The byte `RandomSource` answers to the `k`-th executed `RND` (00_scope.md R13, 44_random.md R221): no
body, so nothing can evaluate it or prove a value of it. DESIGN CHOICE, safe (log entry 3). -/
opaque Config.randomByte : Nat → Byte

end Sys2Proof
end

