-- ==== Sys2Proof/Machine/Params.lean ====
section
/-! DEFINITION. The default of the one implementation parameter a step depends on (spec/00_scope.md R7, R8). -/

namespace Sys2Proof.Machine

/-- `DRAW_OPCODE`, "Bool, default `false`" (R7): the baseline configuration is what the source commits to (R8). -/
def defaultDrawOpcode : Bool := false

end Sys2Proof.Machine
end

