-- ==== Sys2Proof/Machine/State.lean ====
section
/-! DEFINITION. The state of the core as plain data (spec/10_state.md), the reasons a step can stop, and the state
after reset (10_state.md R40, 70_reset_and_hazards.md R310). -/

namespace Sys2Proof.Machine

/-- The four fatal conditions (60_exceptions.md R270, R275). -/
inductive FatalKind where
  | memoryOutOfRange
  | unimplementedOpcode
  | stackOverflow
  | stackUnderflow
  deriving DecidableEq, Repr

/-- A fatal condition with the information told to the host beside it; no register records it (R276). -/
inductive FatalInfo where
  /-- The `pc` of a failed fetch, or `I + n - 1` of a failed sprite slice: an unbounded integer (R61, R276). -/
  | memoryOutOfRange (addr : Nat)
  /-- The opcode no row of R100 matches. -/
  | unimplementedOpcode (op : Word16)
  | stackOverflow
  | stackUnderflow
  deriving DecidableEq, Repr

/-- The hidden cell `status` (R37): `Step` is enabled only in `running`; only reset leaves `faulted`. -/
inductive Status where
  | running
  | faulted (kind : FatalKind)
  deriving DecidableEq, Repr

/-- What one `Step` returns to the host (00_scope.md R15, 40_cycle_and_control.md R125). -/
inductive StepOutcome where
  /-- `Continue` -/
  | cont
  /-- `HaltSignal` -/
  | haltSignal
  /-- `Fault(kind)` with its information -/
  | fault (info : FatalInfo)
  deriving DecidableEq, Repr

/-- Main memory as (address, byte) pairs: addresses strictly rising, none at or above 4096, no byte 0. An address that
is not listed reads as 0, the byte's reset value (R34, R40). The form is `Mem.wf` of Ops.lean. -/
abbrev Mem := List Host.Cell

/-- The pixel grid, 32 rows of 64 cells: row 0 at the top, column 0 at the left (R35). -/
abbrev Grid := Vector (Vector Bool 64) 32

/-- The whole state (10_state.md, opening tuple), the parameter `DRAW_OPCODE`, and the model's own two fields. -/
structure State where
  /-- General registers `V[0]` .. `V[15]`; `V[15]` is the flags register `VF` (R20, R23). -/
  V : Vector Byte 16
  /-- Index register (R25). -/
  I : Word16
  /-- Program counter: 16 bits, never masked (R26, R30). -/
  pc : Word16
  /-- The count of valid stack entries, 0 to 16 (R31). -/
  sp : Fin 17
  /-- The 16 stack slots (R32). -/
  stack : Vector Word16 16
  /-- Main memory, 4096 bytes (R34). -/
  mem : Mem
  /-- Display cells (R35). -/
  pixel : Grid
  /-- The Display's flag (R36). -/
  dirty : Bool
  /-- `RUNNING` or `FAULTED(kind)` (R37). -/
  status : Status
  /-- Parameter `DRAW_OPCODE` (00_scope.md R7, R8); no step changes it (log entry 4). -/
  drawOpcode : Bool
  /-- MODEL'S OWN: how many random bytes have been consumed (log entry 3). -/
  rndIndex : Nat
  /-- MODEL'S OWN: what the last step returned to the host; no step reads it (log entry 2). -/
  outcome : Option StepOutcome
  deriving DecidableEq, Repr

/-- Why a step has no next state. A fatal condition itself is no stop of the model: the step that raises it answers a
next state whose `status` is `FAULTED(kind)` (60_exceptions.md R280, log entry 1). -/
inductive Fault where
  /-- Raised by `step` alone, when `status = FAULTED(kind)`: `Step` is not enabled (R37, R280, R283). Safe: the machine
  is stuck exactly where the spec says that no step runs. -/
  | stepNotEnabled (kind : FatalKind)
  deriving DecidableEq, Repr

/-- Why an instruction has no meaning. -/
inductive Refusal where
  /-- Raised by an arm of `exec` whose instruction has no meaning yet; no arm raises it now. Safe. -/
  | notModelled (mnemonic : String)
  deriving DecidableEq, Repr

/-- After reset (R40, R310): everything zero, `status` running, the baseline configuration. `rndIndex` and `outcome`
are the model's own (DESIGN CHOICE, log entries 3 and 2). -/
def State.reset : State where
  V := Vector.replicate 16 0
  I := 0
  pc := 0
  sp := 0
  stack := Vector.replicate 16 0
  mem := []
  pixel := Vector.replicate 32 (Vector.replicate 64 false)
  dirty := false
  status := .running
  drawOpcode := defaultDrawOpcode
  rndIndex := 0
  outcome := none

end Sys2Proof.Machine
end

