-- ==== Sys2Proof/Machine/Ops.lean ====
section
/-! DEFINITION. The named operations over memory, registers, stack and status that every meaning is written with, the
phases of the instruction cycle (spec/40_cycle_and_control.md R120 to R124), and the ONE operation that raises a fatal
condition (60_exceptions.md R278, R280). There is no return from one (R282). -/

namespace Sys2Proof.Machine

/-! ## Main memory (20_memory.md) -/

/-- The number of bytes of `mem`; an address is valid iff it is below this (R61). -/
def memSize : Nat := 4096

/-- The byte at an address of the list; an unlisted address holds 0 (R40). -/
def Mem.read : Mem → Nat → Byte
  | [], _ => 0
  | (a, b) :: rest, addr => if a = addr then b else Mem.read rest addr

/-- Set the byte at an address and keep the canonical form: a byte 0 is not listed. -/
def Mem.write : Mem → Nat → Byte → Mem
  | [], addr, v => if v = 0 then [] else [(addr, v)]
  | (a, b) :: rest, addr, v =>
    if addr < a then (if v = 0 then (a, b) :: rest else (addr, v) :: (a, b) :: rest)
    else if addr = a then (if v = 0 then rest else (addr, v) :: rest)
    else (a, b) :: Mem.write rest addr v

/-- Addresses strictly rising from `low`, all below `memSize`, no byte 0. -/
def Mem.wfFrom : Nat → Mem → Bool
  | _, [] => true
  | low, (a, b) :: rest => decide (low ≤ a) && decide (a < memSize) && decide (b ≠ 0) && Mem.wfFrom (a + 1) rest

/-- The canonical form of memory. -/
def Mem.wf (m : Mem) : Bool := Mem.wfFrom 0 m

/-- `mem[addr]`. -/
def memByte (s : State) (addr : Nat) : Byte := Mem.read s.mem addr

/-- `MemRead(addr, n)` (00_scope.md R17, R63): the `n` bytes from `addr` upwards, `none` where one of them is outside
memory. An empty slice is inside wherever it starts (45_display.md R251). -/
def memSlice (s : State) (addr n : Nat) : Option (List Byte) :=
  if n = 0 ∨ addr + n ≤ memSize then some ((List.range n).map fun j => memByte s (addr + j)) else none

/-! ## Registers (10_state.md) -/

/-- The flags register `VF` (R23). -/
def vf : RegIdx := 15

/-- `V[x]` (R20). -/
def readV (s : State) (x : RegIdx) : Byte := s.V[x.toNat]'x.isLt

/-- `V[x] <- b` (R20). -/
def writeV (s : State) (x : RegIdx) (b : Byte) : State := { s with V := s.V.set x.toNat b x.isLt }

/-- The result first, the flag second: with `x = 15` the flag is what remains (43_alu.md R191). -/
def writeResultThenFlag (s : State) (x : RegIdx) (result flag : Byte) : State := writeV (writeV s x result) vf flag

/-- `pc <- target` (R26). -/
def setPc (s : State) (target : Word16) : State := { s with pc := target }

/-- `I <- v` (R25). -/
def setI (s : State) (v : Word16) : State := { s with I := v }

/-! ## Call stack (R31 to R33) -/

/-- `stack[sp] <- v; sp <- sp + 1`, `none` when the stack holds 16 entries. -/
def push (s : State) (v : Word16) : Option State :=
  if h : s.sp.val < 16 then
    some { s with stack := s.stack.set s.sp.val v h, sp := ⟨s.sp.val + 1, by omega⟩ }
  else none

/-- `sp <- sp - 1; result <- stack[sp]`, `none` when the stack is empty. The slot keeps its content (R33). -/
def pop (s : State) : Option (Word16 × State) :=
  if h : 0 < s.sp.val then
    some (s.stack[s.sp.val - 1]'(by omega), { s with sp := ⟨s.sp.val - 1, by omega⟩ })
  else none

/-! ## The random input (44_random.md R221) -/

/-- `rnd()`: the byte `RandomSource` answers to this execution. -/
def rndByte (s : State) : Byte := Config.randomByte s.rndIndex

/-- One byte of `RandomSource` is consumed. -/
def consumeRnd (s : State) : State := { s with rndIndex := s.rndIndex + 1 }

/-! ## Fatal conditions (60_exceptions.md) -/

/-- The condition told by the information (R275, R276). -/
def kindOf : FatalInfo → FatalKind
  | .memoryOutOfRange _ => .memoryOutOfRange
  | .unimplementedOpcode _ => .unimplementedOpcode
  | .stackOverflow => .stackOverflow
  | .stackUnderflow => .stackUnderflow

/-- The cause code of R275; it carries no meaning beyond identity. -/
def causeCode : FatalKind → Nat
  | .memoryOutOfRange => 1
  | .unimplementedOpcode => 2
  | .stackOverflow => 3
  | .stackUnderflow => 4

/-- `raise <Fault>(info)` (00_scope.md R17, R278, R280): `status <- FAULTED(kind)` and the step's outcome is
`Fault(kind)`; nothing else is written, and what the step wrote before stands. Taking a fatal condition is a next
state; the machine is stuck in it (log entry 1). -/
def raise (info : FatalInfo) (s : State) : Host.Outcome State Fault Refusal :=
  .next { s with status := .faulted (kindOf info), outcome := some (.fault info) }

/-- `signal Halt` (00_scope.md R17): the step's outcome is `HaltSignal` instead of `Continue`; no state of the spec is
written. -/
def signalHalt (s : State) : State := { s with outcome := some .haltSignal }

/-! ## The instruction cycle (40_cycle_and_control.md) -/

/-- Fetch (R121): the opcode at `pc` and `pc + 1`, `none` when either is outside memory, that is when `pc > 4094`. -/
def fetch (s : State) : Option Word16 :=
  if s.pc.toNat + 1 < memSize then
    some (composeOpcode (memByte s s.pc.toNat) (memByte s (s.pc.toNat + 1)))
  else none

/-- What a failed fetch does (R121, R271): `pc` is not advanced. -/
def fetchFault (s : State) : Host.Outcome State Fault Refusal := raise (.memoryOutOfRange s.pc.toNat) s

/-- Advance (R123): `pc <- pc + 2`. The step's outcome is `Continue` until something says otherwise (R125). -/
def advance (s : State) : State := { s with pc := s.pc + 2, outcome := some .cont }

/-- What an opcode without a row does, after the advance (R104, R124, R272). -/
def dispatchFault (op : Word16) (s : State) : Host.Outcome State Fault Refusal := raise (.unimplementedOpcode op) s

end Sys2Proof.Machine
end

