-- ==== Sys2Proof/Machine/Operands.lean ====
section
/-! DEFINITION. Operand forms (spec/30_encoding.md R93): nothing is sign-extended, scaled or shifted. -/

namespace Sys2Proof.Machine

/-- `zext_16(nnn)`: a 12-bit absolute address as a value of `pc` or `I` (R93). -/
def absAddr (nnn : Addr12) : Word16 := nnn.setWidth 16

/-- `zext_16(V[0]) + zext_16(nnn)` (40_cycle_and_control.md R130): at most `0x10FE`, not masked to 12 bits. -/
def indexedAddr (s : State) (nnn : Addr12) : Word16 := (readV s 0).setWidth 16 + nnn.setWidth 16

/-- The skip (41_skips.md R150): 2 more than the common advance when the condition holds. -/
def skipIf (cond : Bool) (s : State) : State := if cond then setPc s (s.pc + 2) else s

end Sys2Proof.Machine
end

