-- ==== Sys2Proof/Machine/Alu.lean ====
section
/-! DEFINITION. The nine register-to-register instructions of group 8 (spec/43_alu.md). Operands are the old values; the
result is written before the flag (R191). -/

namespace Sys2Proof.Machine

/-- R192. -/
def execLdReg (x y : RegIdx) (s : State) : Host.Outcome State Fault Refusal := .next (writeV s x (readV s y))

/-- R193. -/
def execOrReg (x y : RegIdx) (s : State) : Host.Outcome State Fault Refusal :=
  .next (writeV s x (readV s x ||| readV s y))

/-- R194. -/
def execAndReg (x y : RegIdx) (s : State) : Host.Outcome State Fault Refusal :=
  .next (writeV s x (readV s x &&& readV s y))

/-- R195. -/
def execXorReg (x y : RegIdx) (s : State) : Host.Outcome State Fault Refusal :=
  .next (writeV s x (readV s x ^^^ readV s y))

/-- R196: modulo 256, `VF` = carry out. -/
def execAddReg (x y : RegIdx) (s : State) : Host.Outcome State Fault Refusal :=
  .next (writeResultThenFlag s x (readV s x + readV s y) (carryFlag (readV s x) (readV s y)))

/-- R197: modulo 256, `VF` = borrow. -/
def execSub (x y : RegIdx) (s : State) : Host.Outcome State Fault Refusal :=
  .next (writeResultThenFlag s x (readV s x - readV s y) (borrowFlag (readV s x) (readV s y)))

/-- R198: the source is `V[y]`; the old `V[x]` is no operand. -/
def execShr (x y : RegIdx) (s : State) : Host.Outcome State Fault Refusal :=
  .next (writeResultThenFlag s x (readV s y >>> 1) (shiftedOutRight (readV s y)))

/-- R199: modulo 256, `VF` = no borrow. -/
def execSubn (x y : RegIdx) (s : State) : Host.Outcome State Fault Refusal :=
  .next (writeResultThenFlag s x (readV s y - readV s x) (noBorrowFlag (readV s x) (readV s y)))

/-- R200: the source is `V[y]`; the old `V[x]` is no operand. -/
def execShl (x y : RegIdx) (s : State) : Host.Outcome State Fault Refusal :=
  .next (writeResultThenFlag s x (readV s y <<< 1) (shiftedOutLeft (readV s y)))

end Sys2Proof.Machine
end

