-- ==== Sys2Proof/Machine/Control.lean ====
section
/-! DEFINITION. HALT, RET, JP, CALL and JP V0 (spec/40_cycle_and_control.md section 3). Every handler runs with `pc`
already advanced past its instruction (R123). -/

namespace Sys2Proof.Machine

/-- R126: the halt signal is the step's outcome, not state; `status` stays `RUNNING`. -/
def execHalt (s : State) : Host.Outcome State Fault Refusal := .next (signalHalt s)

/-- R127: the popped value as it is, all 16 bits; `StackUnderflow` on an empty stack. -/
def execRet (s : State) : Host.Outcome State Fault Refusal :=
  match pop s with
  | none => raise .stackUnderflow s
  | some (target, s') => .next (setPc s' target)

/-- R128. -/
def execJp (nnn : Addr12) (s : State) : Host.Outcome State Fault Refusal := .next (setPc s (absAddr nnn))

/-- R129: pushes the advanced `pc`; `StackOverflow` on a full stack, and then nothing is pushed and `pc` is not the
target. -/
def execCall (nnn : Addr12) (s : State) : Host.Outcome State Fault Refusal :=
  match push s s.pc with
  | none => raise .stackOverflow s
  | some s' => .next (setPc s' (absAddr nnn))

/-- R130. -/
def execJpV0 (nnn : Addr12) (s : State) : Host.Outcome State Fault Refusal := .next (setPc s (indexedAddr s nnn))

end Sys2Proof.Machine
end

