-- ==== Sys2Proof/Machine/Immediate.lean ====
section
/-! DEFINITION. Immediate load, immediate add and index load (spec/42_immediate_and_index.md). No flag side effect. -/

namespace Sys2Proof.Machine

/-- R170. -/
def execLdImm (x : RegIdx) (nn : Byte) (s : State) : Host.Outcome State Fault Refusal := .next (writeV s x nn)

/-- R171: modulo 256, `V[15]` untouched unless it is `V[x]`. -/
def execAddImm (x : RegIdx) (nn : Byte) (s : State) : Host.Outcome State Fault Refusal :=
  .next (writeV s x (readV s x + nn))

/-- R172. -/
def execLdI (nnn : Addr12) (s : State) : Host.Outcome State Fault Refusal := .next (setI s (absAddr nnn))

end Sys2Proof.Machine
end

