-- ==== Sys2Proof/Machine/Random.lean ====
section
/-! DEFINITION. RND (spec/44_random.md R220, R221). The byte is a free value (log entry 3). -/

namespace Sys2Proof.Machine

/-- R220: `V[x] <- rnd() & nn`; exactly one byte is consumed (R221). -/
def execRnd (x : RegIdx) (nn : Byte) (s : State) : Host.Outcome State Fault Refusal :=
  .next (writeV (consumeRnd s) x (rndByte s &&& nn))

end Sys2Proof.Machine
end

