-- ==== Sys2Proof/Machine/Skips.lean ====
section
/-! DEFINITION. The four conditional skips (spec/41_skips.md): equality of unsigned bytes, nothing written but `pc`. -/

namespace Sys2Proof.Machine

/-- R151. -/
def execSeImm (x : RegIdx) (nn : Byte) (s : State) : Host.Outcome State Fault Refusal :=
  .next (skipIf (readV s x == nn) s)

/-- R152. -/
def execSneImm (x : RegIdx) (nn : Byte) (s : State) : Host.Outcome State Fault Refusal :=
  .next (skipIf (readV s x != nn) s)

/-- R153. -/
def execSeReg (x y : RegIdx) (s : State) : Host.Outcome State Fault Refusal :=
  .next (skipIf (readV s x == readV s y) s)

/-- R154. -/
def execSneReg (x y : RegIdx) (s : State) : Host.Outcome State Fault Refusal :=
  .next (skipIf (readV s x != readV s y) s)

end Sys2Proof.Machine
end

