-- ==== Sys2Proof/Machine/Display.lean ====
section
/-! DEFINITION. The Display's drawing operation and read-out (spec/45_display.md). -/

namespace Sys2Proof.Machine

/-- `pixel[r][c]`. -/
def Grid.cell (g : Grid) (r : Fin 32) (c : Fin 64) : Bool := g[r][c]

/-- `pixel[r][c] <- pixel[r][c] ^ 1`. -/
def Grid.toggle (g : Grid) (r : Fin 32) (c : Fin 64) : Grid := g.set r.val (g[r].set c.val (!g[r][c]))

/-- The row an unbounded vertical coordinate falls on, modulo 32 (R232). -/
def wrapRow (y : Nat) : Fin 32 := Fin.ofNat 32 y

/-- The column an unbounded horizontal coordinate falls on, modulo 64 (R232). -/
def wrapCol (x : Nat) : Fin 64 := Fin.ofNat 64 x

/-- One bit of a sprite row at column offset `i`, most significant bit first (R231, R233): a 0 bit does nothing; a 1 bit
records a collision if its cell is set at that moment, then toggles the cell. -/
def drawBit (x0 y : Nat) (byte : Byte) (acc : Grid × Bool) (i : Nat) : Grid × Bool :=
  if byte.getLsbD (7 - i) then
    (acc.1.toggle (wrapRow y) (wrapCol (x0 + i)), acc.2 || acc.1.cell (wrapRow y) (wrapCol (x0 + i)))
  else acc

/-- One sprite byte on row `y`: its 8 bits in ascending column order. -/
def drawByte (x0 y : Nat) (byte : Byte) (acc : Grid × Bool) : Grid × Bool :=
  [0, 1, 2, 3, 4, 5, 6, 7].foldl (drawBit x0 y byte) acc

/-- The sprite rows from row coordinate `y` on, in ascending order (R231, R235). -/
def drawRows (x0 : Nat) : Nat → List Byte → Grid × Bool → Grid × Bool
  | _, [], acc => acc
  | y, byte :: rest, acc => drawRows x0 (y + 1) rest (drawByte x0 y byte acc)

/-- The grid after `Draw(x0, y0, bytes)` and whether any set cell was turned off (R231, R234). -/
def drawSprite (x0 y0 : Nat) (bytes : List Byte) (g : Grid) : Grid × Bool := drawRows x0 y0 bytes (g, false)

/-- The transaction `Draw(x0, y0, bytes) -> collision` (R231): the grid, and `dirty` set at its end whatever was drawn
(R238). -/
def draw (x0 y0 : Nat) (bytes : List Byte) (s : State) : Bool × State :=
  ((drawSprite x0 y0 bytes s.pixel).2, { s with pixel := (drawSprite x0 y0 bytes s.pixel).1, dirty := true })

/-- A colour `0x00RRGGBB` (R241): bits 31 to 24 are 0 by the 24-bit width of the parameter (00_scope.md R7). -/
def packColor (rgb : BitVec 24) : BitVec 32 := rgb.setWidth 32

/-- `ToRenderBuffer()` (R240): every cell in row-major order, `FG_COLOR` for 1 and `BG_COLOR` for 0. The two colours are
parameters of the embedding (R7, R241). -/
def toRenderBuffer (fgColor bgColor : BitVec 24) (g : Grid) : List (BitVec 32) :=
  g.toList.flatMap fun row => row.toList.map fun b => packColor (if b then fgColor else bgColor)

/-- `ClearDirty()` (R239). -/
def clearDirty (s : State) : State := { s with dirty := false }

end Sys2Proof.Machine
end

