-- ==== Sys2Proof/Machine/Sprite.lean ====
section
/-! DEFINITION. DRW (spec/45_display.md R250, R251). The decoder yields it only when `DRAW_OPCODE = true`
(30_encoding.md R102). -/

namespace Sys2Proof.Machine

/-- R250: the origins are read before any write; the slice check comes before any cell changes (R251); `I` is kept. -/
def execDrw (x y : RegIdx) (n : Nibble) (s : State) : Host.Outcome State Fault Refusal :=
  match memSlice s s.I.toNat n.toNat with
  | none => raise (.memoryOutOfRange (s.I.toNat + n.toNat - 1)) s
  | some bytes =>
    match draw (readV s x).toNat (readV s y).toNat bytes s with
    | (collision, s') => .next (writeV s' vf (collisionFlag collision))

end Sys2Proof.Machine
end

