-- ==== Sys2Proof/Machine/HostPort.lean ====
section
/-! DEFINITION. The host's transactions (spec/00_scope.md R12, R14; 70_reset_and_hazards.md R310, R315 to R317): each
completes between two steps (20_memory.md R74, log entry 10). `none` is a transaction the spec does not admit. -/

namespace Sys2Proof.Machine

/-- `HostWriteMem(addr, byte)`, `0 <= addr <= 4095` (R12). -/
def hostWriteMem (addr : Nat) (byte : Byte) (s : State) : Option State :=
  if addr < memSize then some { s with mem := Mem.write s.mem addr byte } else none

/-- `HostWriteReg(i, byte)` (R12). -/
def hostWriteReg (x : RegIdx) (byte : Byte) (s : State) : State := writeV s x byte

/-- `HostWriteI(v)`: any 16-bit value (R316). -/
def hostWriteI (v : Word16) (s : State) : State := setI s v

/-- `HostWritePC(v)`: any 16-bit value (R316). -/
def hostWritePC (v : Word16) (s : State) : State := setPc s v

/-- The entries `values` at slots `k`, `k + 1`, ... of the stack; slots past the sixteenth do not exist. -/
def fillStack : Nat → List Word16 → Vector Word16 16 → Vector Word16 16
  | _, [], stack => stack
  | k, v :: rest, stack => fillStack (k + 1) rest (stack.setIfInBounds k v)

/-- The pre-seed of `sp` together with `stack[0..sp-1]`, `values` bottom first; more than 16 entries are not admitted
(R316). Slots above keep their content. -/
def hostSeedStack (values : List Word16) (s : State) : Option State :=
  if h : values.length ≤ 16 then
    some { s with stack := fillStack 0 values s.stack, sp := ⟨values.length, by omega⟩ }
  else none

/-- Bytes written to ascending addresses from `addr`. -/
def writeBytes : Nat → List Byte → Mem → Mem
  | _, [], m => m
  | addr, b :: rest, m => writeBytes (addr + 1) rest (Mem.write m addr b)

/-- The loader (R317): byte `k` of the image goes to `mem[LOAD_BASE + k]`; the image must fit. -/
def loadImage (loadBase : Nat) (image : List Byte) (s : State) : Option State :=
  if loadBase + image.length ≤ memSize then some { s with mem := writeBytes loadBase image s.mem } else none

/-- `Draw` issued from outside the Interpreter (R14, 45_display.md R252). -/
def hostDraw (x0 y0 : Nat) (bytes : List Byte) (s : State) : Bool × State := draw x0 y0 bytes s

/-- Reset (R310): the only way out of `FAULTED` (R282). The parameter `DRAW_OPCODE` is no state and stays; the random
source is outside the core and is not rewound (log entry 15). -/
def hostReset (s : State) : State := { State.reset with drawOpcode := s.drawOpcode, rndIndex := s.rndIndex }

end Sys2Proof.Machine
end

