-- ==== Sys2Proof/Machine/Step.lean ====
section
/-! DEFINITION. One step (spec/40_cycle_and_control.md R120): fetch, decode, advance, dispatch. -/

namespace Sys2Proof.Machine

/-- R120: enabled only when `status = RUNNING` (10_state.md R37). The fetch check comes first, then dispatch, then the
handler (60_exceptions.md R277). -/
def step (s : State) : Host.Outcome State Fault Refusal :=
  match s.status with
  | .faulted kind => .fault (.stepNotEnabled kind)
  | .running =>
    match fetch s with
    | none => fetchFault s
    | some op =>
      match decodeOpcode s.drawOpcode op with
      | .error _ => dispatchFault op (advance s)
      | .ok i => exec i (advance s)

/-- Whether an opcode is in group 0xD, whose row exists only under `DRAW_OPCODE = true` (30_encoding.md R102). -/
def isDrawGroup (op : Word16) : Bool := fieldGroup op == 0xD#4

/-- The opcode `w` stored where the next step fetches, high byte first, as a loader would (log entry 5). For an opcode of
group 0xD the configuration is the one in which its row exists. Where no opcode can stand (`pc > 4094`), nothing changes. -/
def State.withFetchWord (s : State) (nbits w : Nat) : State :=
  match loadImage s.pc.toNat (opcodeBytes (BitVec.ofNat 16 (w % 2 ^ nbits))) s with
  | some t => { t with drawOpcode := s.drawOpcode || isDrawGroup (BitVec.ofNat 16 (w % 2 ^ nbits)) }
  | none => s

end Sys2Proof.Machine
end

