-- ==== Sys2Proof/Machine/Run.lean ====
section
/-! DEFINITION. The reference run (spec/70_reset_and_hazards.md R320): step until the first `HaltSignal` or `Fault`. -/

namespace Sys2Proof.Machine

/-- How a run stops. `budgetSpent`: the host stopped early, which changes no state and is neither a normal nor an
abnormal end (R320, log entry 22). `notEnabled`: no step is enabled in the state (R280). -/
inductive RunResult where
  | halted (s : State)
  | faulted (kind : FatalKind) (s : State)
  | budgetSpent (s : State)
  | notEnabled (s : State)
  deriving DecidableEq, Repr

/-- How the run goes on after a step that answered `s` (R320). -/
def afterStep (s : State) (goOn : RunResult) : RunResult :=
  match s.outcome with
  | some (.fault info) => .faulted (kindOf info) s
  | some .haltSignal => .halted s
  | some .cont => goOn
  | none => goOn

/-- R320 under a step budget. -/
def run : Nat → State → RunResult
  | 0, s => .budgetSpent s
  | k + 1, s =>
    match step s with
    | .next t => afterStep t (run k t)
    | .fault _ => .notEnabled s
    | .refused _ => .notEnabled s

end Sys2Proof.Machine
end

