-- ==== Sys2Proof/Safety.lean ====
section
/-! DEFINITION. The terms claims are stated in: frames, what the spec's tables say an instruction writes and how it
leaves `pc`, which cells a sprite covers, and the invariant of the machine. None of it is used by a step. -/

namespace Sys2Proof

open Machine

/-! ## Frames -/

/-- Every general register outside `ws` reads as before. -/
def SameRegsExcept (ws : List RegIdx) (s t : State) : Prop := ∀ r : RegIdx, r ∉ ws → readV t r = readV s r

/-- Every byte of main memory reads as before. -/
def SameMemory (s t : State) : Prop := ∀ addr : Nat, memByte t addr = memByte s addr

/-- The call stack and its pointer are as before. -/
def SameStack (s t : State) : Prop := t.sp = s.sp ∧ t.stack = s.stack

/-- The Display is as before. -/
def SameDisplay (s t : State) : Prop := t.pixel = s.pixel ∧ t.dirty = s.dirty

/-- `status`, the parameter, and the outcome told to the host are as before. -/
def SameControl (s t : State) : Prop := t.status = s.status ∧ t.drawOpcode = s.drawOpcode ∧ t.outcome = s.outcome

/-- Nothing but general registers of `ws` changed: no other register, no `I`, no `pc`, no stack, no byte of memory, no
cell, no `status`; no random byte was consumed. -/
def OnlyRegsChange (ws : List RegIdx) (s t : State) : Prop :=
  SameRegsExcept ws s t ∧ t.I = s.I ∧ t.pc = s.pc ∧ SameStack s t ∧ SameMemory s t ∧ SameDisplay s t ∧
    SameControl s t ∧ t.rndIndex = s.rndIndex

/-- Nothing but `pc` changed. -/
def OnlyPcChanges (s t : State) : Prop :=
  SameRegsExcept [] s t ∧ t.I = s.I ∧ SameStack s t ∧ SameMemory s t ∧ SameDisplay s t ∧ SameControl s t ∧
    t.rndIndex = s.rndIndex

/-- `s` with `status` and the outcome as raising `info` leaves them, and nothing else changed (60_exceptions.md R280). -/
def faultedWith (info : FatalInfo) (s : State) : State :=
  { s with status := .faulted (kindOf info), outcome := some (.fault info) }

/-- `s` with another grid and another `dirty`. -/
def withDisplay (g : Grid) (d : Bool) (s : State) : State := { s with pixel := g, dirty := d }

/-- A state function on the next state of an outcome; a stop stays the same stop. -/
def mapNext (f : State → State) : Host.Outcome State Fault Refusal → Host.Outcome State Fault Refusal
  | .next t => .next (f t)
  | .fault r => .fault r
  | .refused r => .refused r

/-! ## What the spec's tables say of each instruction -/

/-- The destination register `V[x]` (10_state.md R22, "Writes"). -/
def destReg : Instr → Option RegIdx
  | .halt => none
  | .ret => none
  | .jp _ => none
  | .call _ => none
  | .seImm _ _ => none
  | .sneImm _ _ => none
  | .seReg _ _ => none
  | .ldImm x _ => some x
  | .addImm x _ => some x
  | .ldReg x _ => some x
  | .orReg x _ => some x
  | .andReg x _ => some x
  | .xorReg x _ => some x
  | .addReg x _ => some x
  | .sub x _ => some x
  | .shr x _ => some x
  | .subn x _ => some x
  | .shl x _ => some x
  | .sneReg _ _ => none
  | .ldI _ => none
  | .jpV0 _ => none
  | .rnd x _ => some x
  | .drw _ _ _ => none

/-- The instructions that write `V[15]` as a side effect (10_state.md R23). -/
def writesFlag : Instr → Bool
  | .halt => false
  | .ret => false
  | .jp _ => false
  | .call _ => false
  | .seImm _ _ => false
  | .sneImm _ _ => false
  | .seReg _ _ => false
  | .ldImm _ _ => false
  | .addImm _ _ => false
  | .ldReg _ _ => false
  | .orReg _ _ => false
  | .andReg _ _ => false
  | .xorReg _ _ => false
  | .addReg _ _ => true
  | .sub _ _ => true
  | .shr _ _ => true
  | .subn _ _ => true
  | .shl _ _ => true
  | .sneReg _ _ => false
  | .ldI _ => false
  | .jpV0 _ => false
  | .rnd _ _ => false
  | .drw _ _ _ => true

/-- `pc` after a step that ends without a fault (10_state.md R28), as an unbounded integer, with `a` the address the
instruction was fetched from and `s` the state before the step. -/
def pcAfter (a : Nat) (s : State) : Instr → Nat
  | .halt => a + 2
  | .ret => (s.stack.toList.getD (s.sp.val - 1) 0).toNat
  | .jp nnn => nnn.toNat
  | .call nnn => nnn.toNat
  | .seImm x nn => if readV s x = nn then a + 4 else a + 2
  | .sneImm x nn => if readV s x = nn then a + 2 else a + 4
  | .seReg x y => if readV s x = readV s y then a + 4 else a + 2
  | .ldImm _ _ => a + 2
  | .addImm _ _ => a + 2
  | .ldReg _ _ => a + 2
  | .orReg _ _ => a + 2
  | .andReg _ _ => a + 2
  | .xorReg _ _ => a + 2
  | .addReg _ _ => a + 2
  | .sub _ _ => a + 2
  | .shr _ _ => a + 2
  | .subn _ _ => a + 2
  | .shl _ _ => a + 2
  | .sneReg x y => if readV s x = readV s y then a + 2 else a + 4
  | .ldI _ => a + 2
  | .jpV0 nnn => (readV s 0).toNat + nnn.toNat
  | .rnd _ _ => a + 2
  | .drw _ _ _ => a + 2

/-- Some 1 bit of the sprite falls on cell `(r, c)` (45_display.md R231 to R233): row byte `j`, column offset `i`, most
significant bit first, each coordinate reduced on its own. -/
def spriteCovers (x0 y0 : Nat) (bytes : List Byte) (r : Fin 32) (c : Fin 64) : Prop :=
  ∃ j i : Nat, i < 8 ∧ (∃ byte : Byte, bytes[j]? = some byte ∧ byte.getLsbD (7 - i) = true) ∧
    (y0 + j) % 32 = r.val ∧ (x0 + i) % 64 = c.val

/-! ## The invariant (10_state.md R41) -/

/-- `status` and the outcome the last step told agree (40_cycle_and_control.md R125, 60_exceptions.md R280): the machine
is `FAULTED(kind)` exactly when the last step told `Fault(kind)`. -/
def OutcomeAgrees (s : State) : Prop :=
  ∀ kind : FatalKind, s.status = .faulted kind ↔ ∃ info, s.outcome = some (.fault info) ∧ kindOf info = kind

/-- Memory in canonical form; `pc` at most `0x10FE`; every valid stack entry at most 4096; `status` and the outcome agree
(R30, R41). `sp <= 16` holds by the type of `sp`. -/
def Inv (s : State) : Prop :=
  Mem.wf s.mem = true ∧ s.pc.toNat ≤ 0x10FE ∧
    (∀ k : Fin 16, k.val < s.sp.val → (s.stack.get k).toNat ≤ 4096) ∧ OutcomeAgrees s

end Sys2Proof
end

