-- ==== Sys2Proof/Certificates/Slice0/Obligations.lean ====
section
/-! DEFINITION. The statements about the machine, from the numbered rules of spec/. Each docstring names its rule, and
says where a clause rests on a choice the spec marks as its own (`[decision: ...]`, `[derived: ...]`) or on a log entry.
`exec i s` runs on the state after the common advance, so `s.pc` there is the instruction's address plus 2 (R123). -/

open Sys2Proof Sys2Proof.Machine

/-! ## Reset -/

/-- 10_state.md R40, 70_reset_and_hazards.md R310, R313: every piece of state after reset. The Display's values are the
spec's decision D12 and `status` its decision D3 (log entries 7, 1). -/
def Obligations.ResetLeavesEverythingZero : Prop :=
  (∀ r, readV State.reset r = 0) ∧ State.reset.I = 0 ∧ State.reset.pc = 0 ∧ State.reset.sp.val = 0 ∧
    (∀ k : Fin 16, State.reset.stack.get k = 0) ∧ (∀ addr, memByte State.reset addr = 0) ∧
    (∀ r c, Grid.cell State.reset.pixel r c = false) ∧ State.reset.dirty = false ∧ State.reset.status = .running

/-- R310, R282: the host's reset leads out of every state, `FAULTED` among them, to the reset values. That the parameter
stays is log entry 15. -/
def Obligations.HostResetLeavesFaulted : Prop :=
  ∀ s : State, (hostReset s).status = .running ∧ (hostReset s).V = State.reset.V ∧ (hostReset s).I = State.reset.I ∧
    (hostReset s).pc = State.reset.pc ∧ (hostReset s).sp = State.reset.sp ∧ (hostReset s).stack = State.reset.stack ∧
    (hostReset s).mem = State.reset.mem ∧ (hostReset s).pixel = State.reset.pixel ∧ (hostReset s).dirty = false ∧
    (hostReset s).drawOpcode = s.drawOpcode

/-- R314 (the spec's `[derived]`): with nothing loaded the first step executes `HALT` at address 0; `pc` becomes 2, the
outcome is `HaltSignal`, nothing else changes. -/
def Obligations.FirstStepAfterResetHalts : Prop :=
  step State.reset = .next { State.reset with pc := 2, outcome := some .haltSignal }

/-! ## Encoding -/

/-- 95_test_vectors.md section 2.1 and 30_encoding.md R110: eleven words written out from the spec's encoding, at least one
of every family, and seven words that no row of their configuration matches. -/
def Obligations.SpelledOutOpcodesDecode : Prop :=
  decodeOpcode false 0x0000 = .ok .halt ∧ decodeOpcode false 0x00EE = .ok .ret ∧
  decodeOpcode false 0x1ABC = .ok (.jp 0xABC) ∧ decodeOpcode false 0x2100 = .ok (.call 0x100) ∧
  decodeOpcode false 0x5AB0 = .ok (.seReg 0xA 0xB) ∧ decodeOpcode false 0x632A = .ok (.ldImm 3 0x2A) ∧
  decodeOpcode false 0x8014 = .ok (.addReg 0 1) ∧ decodeOpcode false 0x8AB7 = .ok (.subn 0xA 0xB) ∧
  decodeOpcode false 0x8ABE = .ok (.shl 0xA 0xB) ∧ decodeOpcode false 0xCF0F = .ok (.rnd 0xF 0x0F) ∧
  decodeOpcode true 0xD125 = .ok (.drw 1 2 5) ∧ decodeOpcode false 0xD125 = .error (.unimplemented 0xD125) ∧
  decodeOpcode true 0x00E0 = .error (.unimplemented 0x00E0) ∧ decodeOpcode true 0x01EE = .error (.unimplemented 0x01EE) ∧
  decodeOpcode true 0x5AB1 = .error (.unimplemented 0x5AB1) ∧ decodeOpcode true 0x8AB8 = .error (.unimplemented 0x8AB8) ∧
  decodeOpcode true 0xE19E = .error (.unimplemented 0xE19E) ∧ decodeOpcode true 0xF107 = .error (.unimplemented 0xF107)

/-- R110 (the spec's `[derived]`): decoding is the inverse of encoding, for every well-formed instruction with every
operand, on the opcode and on the bytes in memory order. -/
def Obligations.DecodeOfEncodeIsIdentity : Prop :=
  ∀ (d : Bool) (i : Instr), wellFormed d i = true →
    decodeOpcode d (encode i) = .ok i ∧ ∀ rest, decode d (opcodeBytes (encode i) ++ rest) = .ok (i, rest)

/-- R103 (literal patterns, the spec's decision D22): no bit of an opcode is ignored, so an opcode that decodes is the
opcode its instruction encodes to; and the instruction exists in the configuration. -/
def Obligations.DecodedOpcodeIsItsEncoding : Prop :=
  ∀ (d : Bool) (op : Word16) (i : Instr), decodeOpcode d op = .ok i → encode i = op ∧ wellFormed d i = true

/-- R100: the decoder follows the opcode map. An opcode that decodes to `i` selects the row of `i`; an opcode that selects
a row decodes to an instruction of that row. -/
def Obligations.DecoderFollowsOpcodeMap : Prop :=
  ∀ (d : Bool) (op : Word16),
    (∀ i, decodeOpcode d op = .ok i → rowOf i ∈ opcodeTable d ∧ selectsRow op (rowOf i)) ∧
    (∀ row ∈ opcodeTable d, selectsRow op row → ∃ i, decodeOpcode d op = .ok i ∧ rowOf i = row)

/-- R101 (the spec's `[derived]`): the patterns are pairwise disjoint, no opcode value matches two rows. -/
def Obligations.OpcodeRowsAreDisjoint : Prop :=
  ∀ (d : Bool) (op : Word16), ∀ row ∈ opcodeTable d, ∀ row' ∈ opcodeTable d,
    selectsRow op row → selectsRow op row' → row = row'

/-! ## The instruction cycle -/

/-- 40_cycle_and_control.md R121: a fetch reads two bytes big-endian at any parity of `pc`; for `pc > 4094` the step
raises `MemoryOutOfRange` with no state changed but `status`. That the information told with the fault is `pc` is the
spec's decision D4 (60_exceptions.md R276, log entry 25), and that it stands in the outcome field is log entry 2. -/
def Obligations.FetchIsBigEndianOrFaults : Prop :=
  ∀ s : State, s.status = .running →
    (s.pc.toNat ≤ 4094 → ∃ op, fetch s = some op ∧
      op.toNat = (memByte s s.pc.toNat).toNat * 256 + (memByte s (s.pc.toNat + 1)).toNat) ∧
    (4094 < s.pc.toNat → step s = .next { s with
      status := .faulted .memoryOutOfRange, outcome := some (.fault (.memoryOutOfRange s.pc.toNat)) })

/-- R123, R124: when the two bytes at `pc` decode to an instruction, the step is that instruction run on the state whose
`pc` is advanced by 2 and whose outcome is `Continue` so far; when no row matches, the step raises `UnimplementedOpcode`
after the advance (the spec's decision D2). -/
def Obligations.StepRunsDecodedInstruction : Prop :=
  ∀ s : State, s.status = .running → s.pc.toNat ≤ 4094 →
    (∀ i, decode s.drawOpcode [memByte s s.pc.toNat, memByte s (s.pc.toNat + 1)] = .ok (i, []) →
      step s = exec i { s with pc := s.pc + 2, outcome := some .cont }) ∧
    (∀ op, decode s.drawOpcode [memByte s s.pc.toNat, memByte s (s.pc.toNat + 1)] = .error (.unimplemented op) →
      step s = .next { s with pc := s.pc + 2, status := .faulted .unimplementedOpcode,
                              outcome := some (.fault (.unimplementedOpcode op)) })

/-- R37, R280, R283 (the spec's decision D3): in `FAULTED` no step is enabled. -/
def Obligations.FaultedMachineNeverSteps : Prop :=
  ∀ (s : State) (kind : FatalKind), s.status = .faulted kind → step s = .fault (.stepNotEnabled kind)

/-- R120, R37: in `RUNNING` every step has a next state, whatever stands at `pc`; no instruction stops the model. -/
def Obligations.RunningMachineAlwaysSteps : Prop :=
  (∀ s : State, s.status = .running → ∃ t, step s = .next t) ∧ (∀ (i : Instr) (s : State), ∃ t, exec i s = .next t)

/-- R125, R276: after a step the machine is `FAULTED(kind)` and the outcome tells that `kind`, or it is running and the
outcome is `HaltSignal` if the opcode was `0x0000` and `Continue` if it was any other. That the outcome stands in a field
is log entry 2. -/
def Obligations.StepTellsItsOutcome : Prop :=
  ∀ s t : State, step s = .next t →
    (∃ info, t.status = .faulted (kindOf info) ∧ t.outcome = some (.fault info)) ∨
    (t.status = .running ∧ fetch s = some 0x0000 ∧ t.outcome = some .haltSignal) ∨
    (t.status = .running ∧ (∃ op, fetch s = some op ∧ op ≠ 0x0000) ∧ t.outcome = some .cont)

/-- 10_state.md R28: how each step that does not fault leaves `pc`, with `a` the address it was fetched from. The `HALT`
row is the spec's decision D5. -/
def Obligations.PcAfterEachInstruction : Prop :=
  ∀ (s t : State) (op : Word16) (i : Instr), step s = .next t → t.status = .running → fetch s = some op →
    decodeOpcode s.drawOpcode op = .ok i → t.pc.toNat = pcAfter s.pc.toNat s i

/-! ## Fatal conditions -/

/-- 60_exceptions.md R278 (the spec's decision D2): a fatal step changes nothing but `status`, the outcome told, and
`pc`, which a failed fetch leaves alone and every later fault finds advanced by 2. -/
def Obligations.FatalStepIsPrecise : Prop :=
  ∀ (s t : State) (kind : FatalKind), step s = .next t → t.status = .faulted kind →
    (∃ info, kindOf info = kind ∧
      t = { s with status := .faulted kind, outcome := some (.fault info),
                   pc := if 4094 < s.pc.toNat then s.pc else s.pc + 2 })

/-- R271 to R274, R277, 45_display.md R251: each fatal condition is raised exactly on its cause. The cause through `DRW`
is the spec's decisions D10, D11. -/
def Obligations.EachFatalConditionHasItsCause : Prop :=
  ∀ s t : State, step s = .next t →
    (t.status = .faulted .memoryOutOfRange ↔ 4094 < s.pc.toNat ∨
      ∃ op x y n, fetch s = some op ∧ decodeOpcode s.drawOpcode op = .ok (.drw x y n) ∧ n ≠ 0 ∧
        4095 < s.I.toNat + n.toNat - 1) ∧
    (t.status = .faulted .unimplementedOpcode ↔
      ∃ op, fetch s = some op ∧ ∀ row ∈ opcodeTable s.drawOpcode, ¬ selectsRow op row) ∧
    (t.status = .faulted .stackOverflow ↔
      ∃ op nnn, fetch s = some op ∧ decodeOpcode s.drawOpcode op = .ok (.call nnn) ∧ s.sp.val = 16) ∧
    (t.status = .faulted .stackUnderflow ↔
      ∃ op, fetch s = some op ∧ decodeOpcode s.drawOpcode op = .ok .ret ∧ s.sp.val = 0)

/-! ## Invariants and whole-machine rules -/

/-- 10_state.md R41 (the spec's `[derived]`): the invariant holds after reset. -/
def Obligations.ResetMeetsInvariant : Prop := Inv State.reset

/-- R41, R30 (the spec's `[derived]`): every step keeps the invariant: memory canonical, `pc` at most `0x10FE`, every valid
stack entry at most 4096, `status` and the outcome in agreement. -/
def Obligations.StepKeepsInvariant : Prop := ∀ s t : State, Inv s → step s = .next t → Inv t

/-- R41, R316 (the spec's decision D16): the host's transactions keep the invariant, where a pre-seeded `pc` and
pre-seeded stack entries are within its bounds. -/
def Obligations.HostTransactionsKeepInvariant : Prop :=
  ∀ s : State, Inv s →
    (∀ addr b t, hostWriteMem addr b s = some t → Inv t) ∧ (∀ base image t, loadImage base image s = some t → Inv t) ∧
    (∀ x b, Inv (hostWriteReg x b s)) ∧ (∀ v, Inv (hostWriteI v s)) ∧
    (∀ v : Word16, v.toNat ≤ 0x10FE → Inv (hostWritePC v s)) ∧
    (∀ values t, (∀ v ∈ values, v.toNat ≤ 4096) → hostSeedStack values s = some t → Inv t) ∧
    (∀ x0 y0 bytes, Inv (hostDraw x0 y0 bytes s).2) ∧ Inv (clearDirty s) ∧ Inv (hostReset s)

/-- 20_memory.md R66: no instruction and no step writes main memory, and no host transaction but `HostWriteMem` and the
loader's writes (and a reset) does. -/
def Obligations.NoInstructionWritesMemory : Prop :=
  (∀ (i : Instr) (s t : State), exec i s = .next t → SameMemory s t) ∧
  (∀ s t : State, step s = .next t → SameMemory s t) ∧
  (∀ s : State, (∀ x b, SameMemory s (hostWriteReg x b s)) ∧ (∀ v, SameMemory s (hostWriteI v s)) ∧
    (∀ v, SameMemory s (hostWritePC v s)) ∧ (∀ vs t, hostSeedStack vs s = some t → SameMemory s t) ∧
    (∀ x0 y0 bytes, SameMemory s (hostDraw x0 y0 bytes s).2) ∧ SameMemory s (clearDirty s))

/-- 10_state.md R31, R32: `sp` is 0 after reset and at most 16; only `CALL` adds 1 and only `RET` subtracts 1, and no
other instruction changes it or the slots. That `RET` keeps every slot, the popped one included, is the spec's decision
D19 (R33, log entry 19). -/
def Obligations.OnlyCallAndRetMoveTheStack : Prop :=
  State.reset.sp.val = 0 ∧ (∀ s : State, s.sp.val ≤ 16) ∧
  ∀ (i : Instr) (s t : State), exec i s = .next t →
    (t.sp = s.sp ∧ t.stack = s.stack) ∨ ((∃ nnn, i = .call nnn) ∧ t.sp.val = s.sp.val + 1) ∨
    (i = .ret ∧ t.sp.val + 1 = s.sp.val ∧ t.stack = s.stack)

/-- R22, R23: an instruction writes no general register but its destination `V[x]` and, for the instructions of R23's
table, `V[15]`. The `DRW` row is the spec's decision D10. -/
def Obligations.OnlyDestinationAndFlagChange : Prop :=
  ∀ (i : Instr) (s t : State) (r : RegIdx), exec i s = .next t → readV t r ≠ readV s r →
    destReg i = some r ∨ (r = 15 ∧ writesFlag i = true)

/-- R23: an instruction of R23's table that does not fault leaves `0x00` or `0x01` in `V[15]`. The `DRW` row is the spec's
decision D10. -/
def Obligations.FlagWriteIsZeroOrOne : Prop :=
  ∀ (i : Instr) (s t : State), s.status = .running → exec i s = .next t → t.status = .running → writesFlag i = true →
    readV t 15 = 0 ∨ readV t 15 = 1

/-- R25: the only instruction that writes `I` is `LD I, nnn`, and bits 15..12 of `I` are 0 after it. -/
def Obligations.OnlyLdIWritesIndex : Prop :=
  ∀ (i : Instr) (s t : State), exec i s = .next t → t.I ≠ s.I → ∃ nnn, i = .ldI nnn ∧ t.I.toNat = nnn.toNat

/-- R8, R7: no step changes the parameter `DRAW_OPCODE` (log entry 4). -/
def Obligations.NoStepChangesTheParameter : Prop := ∀ s t : State, step s = .next t → t.drawOpcode = s.drawOpcode

/-- 45_display.md R252: with `DRAW_OPCODE = false` no instruction reaches the Display: a step with any other grid and flag
is the same step with that grid and flag, so the two states evolve independently; and a `Draw` from outside changes
nothing but the Display. -/
def Obligations.BaselineNeverReachesDisplay : Prop :=
  (∀ (s : State) (g : Grid) (f : Bool), s.drawOpcode = false →
    step (withDisplay g f s) = mapNext (withDisplay g f) (step s)) ∧
  (∀ (s : State) (x0 y0 : Nat) (bytes : List Byte),
    (hostDraw x0 y0 bytes s).2 = withDisplay (drawSprite x0 y0 bytes s.pixel).1 true s)

/-- 44_random.md R221: a step consumes exactly one random byte if it executes `RND` and none otherwise; the position in
the stream is the model's own counter (log entry 3). -/
def Obligations.OnlyRndConsumesRandomBytes : Prop :=
  ∀ (i : Instr) (s t : State), exec i s = .next t →
    ((∃ x nn, i = .rnd x nn) ∧ t.rndIndex = s.rndIndex + 1) ∨ ((∀ x nn, i ≠ .rnd x nn) ∧ t.rndIndex = s.rndIndex)

/-! ## Control transfer -/

/-- R126 (the spec's decision D5): `HALT` tells `HaltSignal` and changes nothing else; `status` stays `RUNNING`, nothing is
latched. -/
def Obligations.HaltOnlySignals : Prop :=
  ∀ s : State, exec .halt s = .next { s with outcome := some .haltSignal }

/-- R127: `RET` pops one address into `pc`, all 16 bits as they are; on an empty stack it raises `StackUnderflow`, `pc`
keeps the advanced value and `sp` stays 0. That the popped slot keeps its content is the spec's decision D19 (10_state.md
R33, log entry 19). -/
def Obligations.ReturnPopsOrUnderflows : Prop :=
  ∀ s : State,
    (∀ k : Fin 16, s.sp.val = k.val + 1 → ∃ t, exec .ret s = .next t ∧ t.pc = s.stack.get k ∧ t.sp.val = k.val ∧
      t.stack = s.stack ∧ SameRegsExcept [] s t ∧ t.I = s.I ∧ SameMemory s t ∧ SameDisplay s t ∧ SameControl s t ∧
      t.rndIndex = s.rndIndex) ∧
    (s.sp.val = 0 → exec .ret s = .next { s with status := .faulted .stackUnderflow,
                                                 outcome := some (.fault .stackUnderflow) })

/-- R128: `JP nnn` sets `pc` to the zero-extended address and changes nothing else. -/
def Obligations.JumpSetsPc : Prop :=
  ∀ (s : State) (nnn : Addr12), ∃ t, exec (.jp nnn) s = .next t ∧ t.pc.toNat = nnn.toNat ∧ OnlyPcChanges s t

/-- R129: `CALL nnn` pushes the advanced `pc` in slot `sp`, adds 1 to `sp` and jumps; with 16 entries it raises
`StackOverflow`: nothing is pushed, `sp` stays 16 and `pc` keeps the advanced value. -/
def Obligations.CallPushesOrOverflows : Prop :=
  ∀ (s : State) (nnn : Addr12),
    (∀ k : Fin 16, s.sp.val = k.val → ∃ t, exec (.call nnn) s = .next t ∧ t.pc.toNat = nnn.toNat ∧
      t.sp.val = k.val + 1 ∧ t.stack.get k = s.pc ∧
      (∀ j : Fin 16, j ≠ k → t.stack.get j = s.stack.get j) ∧ SameRegsExcept [] s t ∧ t.I = s.I ∧ SameMemory s t ∧
      SameDisplay s t ∧ SameControl s t ∧ t.rndIndex = s.rndIndex) ∧
    (s.sp.val = 16 → exec (.call nnn) s = .next { s with status := .faulted .stackOverflow,
                                                         outcome := some (.fault .stackOverflow) })

/-- R130: `JP V0, nnn` sets `pc` to `V[0] + nnn`, not reduced modulo 4096, at most `0x10FE`. -/
def Obligations.IndexedJumpAddsV0 : Prop :=
  ∀ (s : State) (nnn : Addr12), ∃ t, exec (.jpV0 nnn) s = .next t ∧
    t.pc.toNat = (readV s 0).toNat + nnn.toNat ∧ t.pc.toNat ≤ 0x10FE ∧ OnlyPcChanges s t

/-- R127, R129 (90_conflicts.md C8): after a `CALL` that found room, a `RET` run at any `pc` goes back to the address the
`CALL` pushed, its own address plus 2, and leaves `sp` as it was before the `CALL`. -/
def Obligations.ReturnUndoesCall : Prop :=
  ∀ (s : State) (nnn : Addr12), s.sp.val < 16 → ∃ t, exec (.call nnn) s = .next t ∧
    ∀ p : Word16, ∃ u, exec .ret { t with pc := p } = .next u ∧ u.pc = s.pc ∧ u.sp = s.sp

/-- R273, R274: `StackOverflow` is raised exactly by a `CALL` entered with `sp = 16` and `StackUnderflow` exactly by a
`RET` entered with `sp = 0`; then nothing is pushed or popped and `pc` is not loaded. -/
def Obligations.StackFaultsExactly : Prop :=
  ∀ (i : Instr) (s t : State), s.status = .running → exec i s = .next t →
    (t.status = .faulted .stackOverflow ↔ (∃ nnn, i = .call nnn) ∧ s.sp.val = 16) ∧
    (t.status = .faulted .stackUnderflow ↔ i = .ret ∧ s.sp.val = 0) ∧
    (t.status = .faulted .stackOverflow ∨ t.status = .faulted .stackUnderflow →
      t.sp = s.sp ∧ t.stack = s.stack ∧ t.pc = s.pc)

/-! ## Skips -/

/-- 41_skips.md R151 to R154: each skip adds 2 to the advanced `pc` exactly when its condition holds and writes nothing but
`pc`. -/
def Obligations.SkipsTestEquality : Prop :=
  ∀ (s : State) (x y : RegIdx) (nn : Byte),
    (∃ t, exec (.seImm x nn) s = .next t ∧ OnlyPcChanges s t ∧
      (readV s x = nn → t.pc = s.pc + 2) ∧ (readV s x ≠ nn → t.pc = s.pc)) ∧
    (∃ t, exec (.sneImm x nn) s = .next t ∧ OnlyPcChanges s t ∧
      (readV s x ≠ nn → t.pc = s.pc + 2) ∧ (readV s x = nn → t.pc = s.pc)) ∧
    (∃ t, exec (.seReg x y) s = .next t ∧ OnlyPcChanges s t ∧
      (readV s x = readV s y → t.pc = s.pc + 2) ∧ (readV s x ≠ readV s y → t.pc = s.pc)) ∧
    (∃ t, exec (.sneReg x y) s = .next t ∧ OnlyPcChanges s t ∧
      (readV s x ≠ readV s y → t.pc = s.pc + 2) ∧ (readV s x = readV s y → t.pc = s.pc))

/-! ## Immediate loads, immediate add, index load -/

/-- 42_immediate_and_index.md R170: `V[x] = nn`, nothing else changes, so `pc` ends at the instruction's address plus 2. -/
def Obligations.LoadImmediateSetsRegister : Prop :=
  ∀ (s : State) (x : RegIdx) (nn : Byte), ∃ t, exec (.ldImm x nn) s = .next t ∧ readV t x = nn ∧ OnlyRegsChange [x] s t

/-- R171: the sum modulo 256 in `V[x]`; `V[15]` is not written unless it is `V[x]`. -/
def Obligations.AddImmediateWrapsWithoutFlag : Prop :=
  ∀ (s : State) (x : RegIdx) (nn : Byte), ∃ t, exec (.addImm x nn) s = .next t ∧
    (readV t x).toNat = ((readV s x).toNat + nn.toNat) % 256 ∧ OnlyRegsChange [x] s t

/-- R172: `I` is the zero-extended address; nothing else changes. -/
def Obligations.LoadIndexZeroExtends : Prop :=
  ∀ (s : State) (nnn : Addr12), ∃ t, exec (.ldI nnn) s = .next t ∧ t.I.toNat = nnn.toNat ∧ t.pc = s.pc ∧
    SameRegsExcept [] s t ∧ SameStack s t ∧ SameMemory s t ∧ SameDisplay s t ∧ SameControl s t ∧ t.rndIndex = s.rndIndex

/-! ## Register-to-register instructions -/

/-- 43_alu.md R192 to R195: the move and the three bitwise operations on the old operands, bit by bit; no flag. -/
def Obligations.MoveAndBitwiseWriteNoFlag : Prop :=
  ∀ (s : State) (x y : RegIdx),
    (∃ t, exec (.ldReg x y) s = .next t ∧ readV t x = readV s y ∧ OnlyRegsChange [x] s t) ∧
    (∃ t, exec (.orReg x y) s = .next t ∧ OnlyRegsChange [x] s t ∧
      ∀ k, (readV t x).getLsbD k = ((readV s x).getLsbD k || (readV s y).getLsbD k)) ∧
    (∃ t, exec (.andReg x y) s = .next t ∧ OnlyRegsChange [x] s t ∧
      ∀ k, (readV t x).getLsbD k = ((readV s x).getLsbD k && (readV s y).getLsbD k)) ∧
    (∃ t, exec (.xorReg x y) s = .next t ∧ OnlyRegsChange [x] s t ∧
      ∀ k, (readV t x).getLsbD k = ((readV s x).getLsbD k ^^ (readV s y).getLsbD k))

/-- R196: `V[x]` is the sum modulo 256 and `V[15]` its carry. With `x = 15` the carry remains (R191, the spec's decision
D8, log entry 18). -/
def Obligations.AddSetsCarry : Prop :=
  ∀ (s : State) (x y : RegIdx), ∃ t, exec (.addReg x y) s = .next t ∧ OnlyRegsChange [x, 15] s t ∧
    (readV t 15).toNat = (if 255 < (readV s x).toNat + (readV s y).toNat then 1 else 0) ∧
    (x ≠ 15 → (readV t x).toNat = ((readV s x).toNat + (readV s y).toNat) % 256)

/-- R197: `V[x]` is the difference modulo 256 and `V[15]` is 1 on a borrow (the spec's decision D7, log entry 21). With
`x = 15` the flag remains (R191, decision D8, log entry 18). -/
def Obligations.SubSetsBorrow : Prop :=
  ∀ (s : State) (x y : RegIdx), ∃ t, exec (.sub x y) s = .next t ∧ OnlyRegsChange [x, 15] s t ∧
    (readV t 15).toNat = (if (readV s x).toNat < (readV s y).toNat then 1 else 0) ∧
    (x ≠ 15 → (readV t x).toNat = ((readV s x).toNat + 256 - (readV s y).toNat) % 256)

/-- R198: `V[x]` is `V[y]` shifted right by one, whatever `V[x]` held, and `V[15]` the old bit 0 of `V[y]`. With `x = 15`
the flag remains (R191, the spec's decision D8, log entry 18). -/
def Obligations.ShiftRightTakesVy : Prop :=
  ∀ (s : State) (x y : RegIdx), ∃ t, exec (.shr x y) s = .next t ∧ OnlyRegsChange [x, 15] s t ∧
    (readV t 15).toNat = (readV s y).toNat % 2 ∧ (x ≠ 15 → (readV t x).toNat = (readV s y).toNat / 2)

/-- R199: `V[x]` is `V[y] - V[x]` modulo 256 and `V[15]` is 0 on a borrow, else 1 (the spec's decision D7, log entry 21).
With `x = 15` the flag remains (R191, decision D8, log entry 18). -/
def Obligations.SubnSetsNoBorrow : Prop :=
  ∀ (s : State) (x y : RegIdx), ∃ t, exec (.subn x y) s = .next t ∧ OnlyRegsChange [x, 15] s t ∧
    (readV t 15).toNat = (if (readV s y).toNat < (readV s x).toNat then 0 else 1) ∧
    (x ≠ 15 → (readV t x).toNat = ((readV s y).toNat + 256 - (readV s x).toNat) % 256)

/-- R200: `V[x]` is `V[y]` shifted left by one modulo 256, whatever `V[x]` held, and `V[15]` the old bit 7 of `V[y]`. With
`x = 15` the flag remains (R191, the spec's decision D8, log entry 18). -/
def Obligations.ShiftLeftTakesVy : Prop :=
  ∀ (s : State) (x y : RegIdx), ∃ t, exec (.shl x y) s = .next t ∧ OnlyRegsChange [x, 15] s t ∧
    (readV t 15).toNat = (readV s y).toNat / 128 ∧ (x ≠ 15 → (readV t x).toNat = (readV s y).toNat * 2 % 256)

/-! ## Random -/

/-- 44_random.md R220: `V[x]` is the random byte ANDed with `nn`, so no bit outside `nn` is set; the byte is a free value,
and this holds for every value of it and of the position in the stream. -/
def Obligations.RandomIsMasked : Prop :=
  ∀ (s : State) (x : RegIdx) (nn : Byte), ∃ t, exec (.rnd x nn) s = .next t ∧
    readV t x = (Config.randomByte s.rndIndex &&& nn) ∧ (readV t x &&& ~~~nn) = 0 ∧ SameRegsExcept [x] s t ∧
    t.I = s.I ∧ t.pc = s.pc ∧ SameStack s t ∧ SameMemory s t ∧ SameDisplay s t ∧ SameControl s t

/-! ## Display -/

/-- 45_display.md R250, R251 (the spec's decisions D10, D11; opcode, length and flag write are general knowledge, log entry
20): with the slice inside memory `DRW` draws its bytes at the origins read before any write and sets `V[15]` to the
collision; with the slice outside it raises `MemoryOutOfRange` and nothing else changes. -/
def Obligations.DrawInstructionDrawsOrFaults : Prop :=
  ∀ (s : State) (x y : RegIdx) (n : Nibble),
    (n = 0 ∨ s.I.toNat + n.toNat - 1 ≤ 4095 → ∃ t, exec (.drw x y n) s = .next t ∧
      (∃ bytes : List Byte, bytes.length = n.toNat ∧ (∀ j (h : j < bytes.length), bytes[j] = memByte s (s.I.toNat + j)) ∧
        t.pixel = (drawSprite (readV s x).toNat (readV s y).toNat bytes s.pixel).1 ∧
        (readV t 15).toNat =
          (if (drawSprite (readV s x).toNat (readV s y).toNat bytes s.pixel).2 then 1 else 0)) ∧
      t.dirty = true ∧ SameRegsExcept [15] s t ∧ t.I = s.I ∧ t.pc = s.pc ∧ SameStack s t ∧ SameMemory s t ∧
      SameControl s t ∧ t.rndIndex = s.rndIndex) ∧
    (n ≠ 0 ∧ 4095 < s.I.toNat + n.toNat - 1 → exec (.drw x y n) s = .next { s with
      status := .faulted .memoryOutOfRange,
      outcome := some (.fault (.memoryOutOfRange (s.I.toNat + n.toNat - 1))) })

/-- R235 (the spec's `[derived]`): for a sprite of at most 32 bytes the draw is the parallel form: exactly the covered cells
are toggled, and a collision is reported exactly when a covered cell was set. -/
def Obligations.DrawEqualsParallelForm : Prop :=
  ∀ (g : Grid) (x0 y0 : Nat) (bytes : List Byte), bytes.length ≤ 32 →
    (∀ r c, spriteCovers x0 y0 bytes r c → Grid.cell (drawSprite x0 y0 bytes g).1 r c = !Grid.cell g r c) ∧
    (∀ r c, ¬ spriteCovers x0 y0 bytes r c → Grid.cell (drawSprite x0 y0 bytes g).1 r c = Grid.cell g r c) ∧
    ((drawSprite x0 y0 bytes g).2 = true ↔ ∃ r c, spriteCovers x0 y0 bytes r c ∧ Grid.cell g r c = true)

/-- R236, its first clause for every sprite, and its second as R231 gives it (log entry 12): drawing the same sprite twice
restores the grid, and for at most 32 rows the second call reports a collision exactly when a covered cell was unset
before the first. -/
def Obligations.DrawTwiceRestoresGrid : Prop :=
  ∀ (g : Grid) (x0 y0 : Nat) (bytes : List Byte),
    (drawSprite x0 y0 bytes (drawSprite x0 y0 bytes g).1).1 = g ∧
    (bytes.length ≤ 32 → ((drawSprite x0 y0 bytes (drawSprite x0 y0 bytes g).1).2 = true ↔
      ∃ r c, spriteCovers x0 y0 bytes r c ∧ Grid.cell g r c = false))

/-- R236 as it is written: the second call returns `true` for every sprite with a 1 bit, whatever the grid held. It fails on
a grid whose covered cells are all set, where the first call turns them off and the second turns them on (log entry 12). -/
def Obligations.SecondDrawAlwaysCollides : Prop :=
  ∀ (g : Grid) (x0 y0 : Nat) (bytes : List Byte),
    (drawSprite x0 y0 bytes (drawSprite x0 y0 bytes g).1).1 = g ∧
    (bytes.length ≤ 32 → (∃ b ∈ bytes, b ≠ 0) → (drawSprite x0 y0 bytes (drawSprite x0 y0 bytes g).1).2 = true)

/-- R233, R238: a sprite of 0 bits leaves every cell, reports no collision and still sets `dirty`. -/
def Obligations.ZeroSpriteOnlySetsDirty : Prop :=
  ∀ (s : State) (x0 y0 k : Nat),
    hostDraw x0 y0 (List.replicate k 0) s = (false, { s with dirty := true })

/-- R238: every `Draw` sets `dirty`, whatever it drew; and no instruction reads `dirty`: but for `dirty` itself the next
state does not depend on it. -/
def Obligations.DirtyIsSetByDrawAndReadByNothing : Prop :=
  (∀ (s : State) (x0 y0 : Nat) (bytes : List Byte), (hostDraw x0 y0 bytes s).2.dirty = true) ∧
  (∀ (i : Instr) (s : State) (f : Bool),
    mapNext clearDirty (exec i { s with dirty := f }) = mapNext clearDirty (exec i s))

/-- R237: the grid changes only by a draw: in an instruction only by `DRW`, which draws; no host transaction but `Draw` and
reset changes it; and there is no clear-screen opcode. -/
def Obligations.OnlyDrawChangesTheGrid : Prop :=
  (∀ (i : Instr) (s t : State), exec i s = .next t → t.pixel = s.pixel ∨
    ∃ x y n bytes, i = .drw x y n ∧
      t.pixel = (drawSprite (readV s x).toNat (readV s y).toNat bytes s.pixel).1) ∧
  (∀ s : State, (∀ x b, (hostWriteReg x b s).pixel = s.pixel) ∧ (∀ v, (hostWriteI v s).pixel = s.pixel) ∧
    (∀ v, (hostWritePC v s).pixel = s.pixel) ∧ (∀ vs t, hostSeedStack vs s = some t → t.pixel = s.pixel) ∧
    (∀ a b t, hostWriteMem a b s = some t → t.pixel = s.pixel) ∧
    (∀ a bs t, loadImage a bs s = some t → t.pixel = s.pixel) ∧ (clearDirty s).pixel = s.pixel) ∧
  (∀ d, decodeOpcode d 0x00E0 = .error (.unimplemented 0x00E0))

/-- R239: `ClearDirty` sets `dirty` to 0 and changes nothing else. -/
def Obligations.ClearDirtyChangesOnlyDirty : Prop :=
  ∀ s : State, (clearDirty s).dirty = false ∧ (clearDirty s).pixel = s.pixel ∧ SameRegsExcept [] s (clearDirty s) ∧
    (clearDirty s).I = s.I ∧ (clearDirty s).pc = s.pc ∧ SameStack s (clearDirty s) ∧ SameMemory s (clearDirty s) ∧
    SameControl s (clearDirty s) ∧ (clearDirty s).rndIndex = s.rndIndex

/-- R240: 2048 entries in row-major order, the foreground colour for a set cell and the background colour for another, bits
31..24 zero. -/
def Obligations.RenderBufferIsRowMajor : Prop :=
  ∀ (fg bg : BitVec 24) (g : Grid), (toRenderBuffer fg bg g).length = 2048 ∧
    ∀ (r : Fin 32) (c : Fin 64), ∃ v, (toRenderBuffer fg bg g)[r.val * 64 + c.val]? = some v ∧
      v.toNat = (if Grid.cell g r c then fg.toNat else bg.toNat)

/-! ## Host -/

/-- 00_scope.md R12, 20_memory.md R61 (the spec's decision D25): a host write inside memory sets exactly its byte and keeps
the canonical form; outside memory it is not admitted. -/
def Obligations.HostWriteSetsOneByte : Prop :=
  ∀ (s : State) (addr : Nat) (b : Byte), Mem.wf s.mem = true →
    (addr ≤ 4095 → ∃ t, hostWriteMem addr b s = some t ∧ memByte t addr = b ∧
      (∀ other, other ≠ addr → memByte t other = memByte s other) ∧ Mem.wf t.mem = true ∧ t = { s with mem := t.mem }) ∧
    (4095 < addr → hostWriteMem addr b s = none)

/-- 70_reset_and_hazards.md R317: byte `k` of the image goes to `mem[LOAD_BASE + k]`; the image must fit; a byte pair of the
image is fetched as an opcode, high byte first; bytes the loader does not write stay as they are, 0 after a reset. -/
def Obligations.LoaderPlacesImage : Prop :=
  ∀ (s : State) (base : Nat) (image : List Byte), Mem.wf s.mem = true →
    base + image.length ≤ 4096 → ∃ t, loadImage base image s = some t ∧
      (∀ k (h : k < image.length), memByte t (base + k) = image[k]) ∧
      (∀ k (h : k + 1 < image.length), ∃ op, fetch { t with pc := BitVec.ofNat 16 (base + k) } = some op ∧
        op.toNat = image[k].toNat * 256 + image[k + 1].toNat) ∧
      (∀ addr, addr < base ∨ base + image.length ≤ addr → memByte t addr = memByte s addr) ∧
      Mem.wf t.mem = true ∧ t = { s with mem := t.mem }

/-- R316 (the spec's decision D16, log entry 10): `sp` with `stack[0..sp-1]` is pre-seeded when at most 16 entries are given,
and more are not admitted. -/
def Obligations.StackSeedIsBounded : Prop :=
  ∀ (s : State) (values : List Word16),
    (values.length ≤ 16 → ∃ t, hostSeedStack values s = some t ∧ t.sp.val = values.length ∧
      (∀ k (h : k < values.length), t.stack.toList[k]? = some values[k]) ∧
      (∀ k : Fin 16, values.length ≤ k.val → t.stack.get k = s.stack.get k) ∧
      t = { s with sp := t.sp, stack := t.stack }) ∧
    (16 < values.length → hostSeedStack values s = none)

/-- R320 (the spec's decision D6, log entry 22): a run that ends halted ends running with `HaltSignal` told, and a larger
budget ends it in the same state; a run that ends faulted ends in `FAULTED(kind)`; only a run begun in `FAULTED` finds no
step enabled. -/
def Obligations.RunEndsAtHaltOrFault : Prop :=
  ∀ (k : Nat) (s t : State),
    (run k s = .halted t → t.status = .running ∧ t.outcome = some .haltSignal ∧ ∀ j, run (k + j) s = .halted t) ∧
    (∀ kind, run k s = .faulted kind t → t.status = .faulted kind ∧ ∀ j, run (k + j) s = .faulted kind t) ∧
    (run k s = .notEnabled t → ∃ kind, s.status = .faulted kind)
end

