-- ==== Sys2Proof/Laws/State.lean ====
section
/-! SUPPORT. What each state update leaves in each field: one lemma per field per update, so that no proof unfolds a
record update. -/

namespace Sys2Proof.Machine

/-! ## writeV -/

theorem writeV_V (s : State) (x : RegIdx) (b : Byte) : (writeV s x b).V = s.V.set x.toNat b x.isLt := rfl
@[simp] theorem writeV_I (s : State) (x : RegIdx) (b : Byte) : (writeV s x b).I = s.I := rfl
@[simp] theorem writeV_pc (s : State) (x : RegIdx) (b : Byte) : (writeV s x b).pc = s.pc := rfl
@[simp] theorem writeV_sp (s : State) (x : RegIdx) (b : Byte) : (writeV s x b).sp = s.sp := rfl
@[simp] theorem writeV_stack (s : State) (x : RegIdx) (b : Byte) : (writeV s x b).stack = s.stack := rfl
@[simp] theorem writeV_mem (s : State) (x : RegIdx) (b : Byte) : (writeV s x b).mem = s.mem := rfl
@[simp] theorem writeV_pixel (s : State) (x : RegIdx) (b : Byte) : (writeV s x b).pixel = s.pixel := rfl
@[simp] theorem writeV_dirty (s : State) (x : RegIdx) (b : Byte) : (writeV s x b).dirty = s.dirty := rfl
@[simp] theorem writeV_status (s : State) (x : RegIdx) (b : Byte) : (writeV s x b).status = s.status := rfl
@[simp] theorem writeV_drawOpcode (s : State) (x : RegIdx) (b : Byte) : (writeV s x b).drawOpcode = s.drawOpcode := rfl
@[simp] theorem writeV_rndIndex (s : State) (x : RegIdx) (b : Byte) : (writeV s x b).rndIndex = s.rndIndex := rfl
@[simp] theorem writeV_outcome (s : State) (x : RegIdx) (b : Byte) : (writeV s x b).outcome = s.outcome := rfl

/-! ## setPc -/

@[simp] theorem setPc_V (s : State) (target : Word16) : (setPc s target).V = s.V := rfl
@[simp] theorem setPc_I (s : State) (target : Word16) : (setPc s target).I = s.I := rfl
@[simp] theorem setPc_pc (s : State) (target : Word16) : (setPc s target).pc = target := rfl
@[simp] theorem setPc_sp (s : State) (target : Word16) : (setPc s target).sp = s.sp := rfl
@[simp] theorem setPc_stack (s : State) (target : Word16) : (setPc s target).stack = s.stack := rfl
@[simp] theorem setPc_mem (s : State) (target : Word16) : (setPc s target).mem = s.mem := rfl
@[simp] theorem setPc_pixel (s : State) (target : Word16) : (setPc s target).pixel = s.pixel := rfl
@[simp] theorem setPc_dirty (s : State) (target : Word16) : (setPc s target).dirty = s.dirty := rfl
@[simp] theorem setPc_status (s : State) (target : Word16) : (setPc s target).status = s.status := rfl
@[simp] theorem setPc_drawOpcode (s : State) (target : Word16) : (setPc s target).drawOpcode = s.drawOpcode := rfl
@[simp] theorem setPc_rndIndex (s : State) (target : Word16) : (setPc s target).rndIndex = s.rndIndex := rfl
@[simp] theorem setPc_outcome (s : State) (target : Word16) : (setPc s target).outcome = s.outcome := rfl

/-! ## setI -/

@[simp] theorem setI_V (s : State) (v : Word16) : (setI s v).V = s.V := rfl
@[simp] theorem setI_I (s : State) (v : Word16) : (setI s v).I = v := rfl
@[simp] theorem setI_pc (s : State) (v : Word16) : (setI s v).pc = s.pc := rfl
@[simp] theorem setI_sp (s : State) (v : Word16) : (setI s v).sp = s.sp := rfl
@[simp] theorem setI_stack (s : State) (v : Word16) : (setI s v).stack = s.stack := rfl
@[simp] theorem setI_mem (s : State) (v : Word16) : (setI s v).mem = s.mem := rfl
@[simp] theorem setI_pixel (s : State) (v : Word16) : (setI s v).pixel = s.pixel := rfl
@[simp] theorem setI_dirty (s : State) (v : Word16) : (setI s v).dirty = s.dirty := rfl
@[simp] theorem setI_status (s : State) (v : Word16) : (setI s v).status = s.status := rfl
@[simp] theorem setI_drawOpcode (s : State) (v : Word16) : (setI s v).drawOpcode = s.drawOpcode := rfl
@[simp] theorem setI_rndIndex (s : State) (v : Word16) : (setI s v).rndIndex = s.rndIndex := rfl
@[simp] theorem setI_outcome (s : State) (v : Word16) : (setI s v).outcome = s.outcome := rfl

/-! ## consumeRnd -/

@[simp] theorem consumeRnd_V (s : State) : (consumeRnd s).V = s.V := rfl
@[simp] theorem consumeRnd_I (s : State) : (consumeRnd s).I = s.I := rfl
@[simp] theorem consumeRnd_pc (s : State) : (consumeRnd s).pc = s.pc := rfl
@[simp] theorem consumeRnd_sp (s : State) : (consumeRnd s).sp = s.sp := rfl
@[simp] theorem consumeRnd_stack (s : State) : (consumeRnd s).stack = s.stack := rfl
@[simp] theorem consumeRnd_mem (s : State) : (consumeRnd s).mem = s.mem := rfl
@[simp] theorem consumeRnd_pixel (s : State) : (consumeRnd s).pixel = s.pixel := rfl
@[simp] theorem consumeRnd_dirty (s : State) : (consumeRnd s).dirty = s.dirty := rfl
@[simp] theorem consumeRnd_status (s : State) : (consumeRnd s).status = s.status := rfl
@[simp] theorem consumeRnd_drawOpcode (s : State) : (consumeRnd s).drawOpcode = s.drawOpcode := rfl
@[simp] theorem consumeRnd_rndIndex (s : State) : (consumeRnd s).rndIndex = s.rndIndex + 1 := rfl
@[simp] theorem consumeRnd_outcome (s : State) : (consumeRnd s).outcome = s.outcome := rfl

/-! ## signalHalt -/

@[simp] theorem signalHalt_V (s : State) : (signalHalt s).V = s.V := rfl
@[simp] theorem signalHalt_I (s : State) : (signalHalt s).I = s.I := rfl
@[simp] theorem signalHalt_pc (s : State) : (signalHalt s).pc = s.pc := rfl
@[simp] theorem signalHalt_sp (s : State) : (signalHalt s).sp = s.sp := rfl
@[simp] theorem signalHalt_stack (s : State) : (signalHalt s).stack = s.stack := rfl
@[simp] theorem signalHalt_mem (s : State) : (signalHalt s).mem = s.mem := rfl
@[simp] theorem signalHalt_pixel (s : State) : (signalHalt s).pixel = s.pixel := rfl
@[simp] theorem signalHalt_dirty (s : State) : (signalHalt s).dirty = s.dirty := rfl
@[simp] theorem signalHalt_status (s : State) : (signalHalt s).status = s.status := rfl
@[simp] theorem signalHalt_drawOpcode (s : State) : (signalHalt s).drawOpcode = s.drawOpcode := rfl
@[simp] theorem signalHalt_rndIndex (s : State) : (signalHalt s).rndIndex = s.rndIndex := rfl
@[simp] theorem signalHalt_outcome (s : State) : (signalHalt s).outcome = some .haltSignal := rfl

/-! ## advance -/

@[simp] theorem advance_V (s : State) : (advance s).V = s.V := rfl
@[simp] theorem advance_I (s : State) : (advance s).I = s.I := rfl
@[simp] theorem advance_pc (s : State) : (advance s).pc = s.pc + 2 := rfl
@[simp] theorem advance_sp (s : State) : (advance s).sp = s.sp := rfl
@[simp] theorem advance_stack (s : State) : (advance s).stack = s.stack := rfl
@[simp] theorem advance_mem (s : State) : (advance s).mem = s.mem := rfl
@[simp] theorem advance_pixel (s : State) : (advance s).pixel = s.pixel := rfl
@[simp] theorem advance_dirty (s : State) : (advance s).dirty = s.dirty := rfl
@[simp] theorem advance_status (s : State) : (advance s).status = s.status := rfl
@[simp] theorem advance_drawOpcode (s : State) : (advance s).drawOpcode = s.drawOpcode := rfl
@[simp] theorem advance_rndIndex (s : State) : (advance s).rndIndex = s.rndIndex := rfl
@[simp] theorem advance_outcome (s : State) : (advance s).outcome = some .cont := rfl

/-! ## faultedWith -/

@[simp] theorem faultedWith_V (s : State) (info : FatalInfo) : (faultedWith info s).V = s.V := rfl
@[simp] theorem faultedWith_I (s : State) (info : FatalInfo) : (faultedWith info s).I = s.I := rfl
@[simp] theorem faultedWith_pc (s : State) (info : FatalInfo) : (faultedWith info s).pc = s.pc := rfl
@[simp] theorem faultedWith_sp (s : State) (info : FatalInfo) : (faultedWith info s).sp = s.sp := rfl
@[simp] theorem faultedWith_stack (s : State) (info : FatalInfo) : (faultedWith info s).stack = s.stack := rfl
@[simp] theorem faultedWith_mem (s : State) (info : FatalInfo) : (faultedWith info s).mem = s.mem := rfl
@[simp] theorem faultedWith_pixel (s : State) (info : FatalInfo) : (faultedWith info s).pixel = s.pixel := rfl
@[simp] theorem faultedWith_dirty (s : State) (info : FatalInfo) : (faultedWith info s).dirty = s.dirty := rfl
@[simp] theorem faultedWith_status (s : State) (info : FatalInfo) : (faultedWith info s).status = .faulted (kindOf info) := rfl
@[simp] theorem faultedWith_drawOpcode (s : State) (info : FatalInfo) : (faultedWith info s).drawOpcode = s.drawOpcode := rfl
@[simp] theorem faultedWith_rndIndex (s : State) (info : FatalInfo) : (faultedWith info s).rndIndex = s.rndIndex := rfl
@[simp] theorem faultedWith_outcome (s : State) (info : FatalInfo) : (faultedWith info s).outcome = some (.fault info) := rfl

/-! ## withDisplay -/

@[simp] theorem withDisplay_V (s : State) (g : Grid) (d : Bool) : (withDisplay g d s).V = s.V := rfl
@[simp] theorem withDisplay_I (s : State) (g : Grid) (d : Bool) : (withDisplay g d s).I = s.I := rfl
@[simp] theorem withDisplay_pc (s : State) (g : Grid) (d : Bool) : (withDisplay g d s).pc = s.pc := rfl
@[simp] theorem withDisplay_sp (s : State) (g : Grid) (d : Bool) : (withDisplay g d s).sp = s.sp := rfl
@[simp] theorem withDisplay_stack (s : State) (g : Grid) (d : Bool) : (withDisplay g d s).stack = s.stack := rfl
@[simp] theorem withDisplay_mem (s : State) (g : Grid) (d : Bool) : (withDisplay g d s).mem = s.mem := rfl
@[simp] theorem withDisplay_pixel (s : State) (g : Grid) (d : Bool) : (withDisplay g d s).pixel = g := rfl
@[simp] theorem withDisplay_dirty (s : State) (g : Grid) (d : Bool) : (withDisplay g d s).dirty = d := rfl
@[simp] theorem withDisplay_status (s : State) (g : Grid) (d : Bool) : (withDisplay g d s).status = s.status := rfl
@[simp] theorem withDisplay_drawOpcode (s : State) (g : Grid) (d : Bool) : (withDisplay g d s).drawOpcode = s.drawOpcode := rfl
@[simp] theorem withDisplay_rndIndex (s : State) (g : Grid) (d : Bool) : (withDisplay g d s).rndIndex = s.rndIndex := rfl
@[simp] theorem withDisplay_outcome (s : State) (g : Grid) (d : Bool) : (withDisplay g d s).outcome = s.outcome := rfl

/-! ## clearDirty -/

@[simp] theorem clearDirty_V (s : State) : (clearDirty s).V = s.V := rfl
@[simp] theorem clearDirty_I (s : State) : (clearDirty s).I = s.I := rfl
@[simp] theorem clearDirty_pc (s : State) : (clearDirty s).pc = s.pc := rfl
@[simp] theorem clearDirty_sp (s : State) : (clearDirty s).sp = s.sp := rfl
@[simp] theorem clearDirty_stack (s : State) : (clearDirty s).stack = s.stack := rfl
@[simp] theorem clearDirty_mem (s : State) : (clearDirty s).mem = s.mem := rfl
@[simp] theorem clearDirty_pixel (s : State) : (clearDirty s).pixel = s.pixel := rfl
@[simp] theorem clearDirty_dirty (s : State) : (clearDirty s).dirty = false := rfl
@[simp] theorem clearDirty_status (s : State) : (clearDirty s).status = s.status := rfl
@[simp] theorem clearDirty_drawOpcode (s : State) : (clearDirty s).drawOpcode = s.drawOpcode := rfl
@[simp] theorem clearDirty_rndIndex (s : State) : (clearDirty s).rndIndex = s.rndIndex := rfl
@[simp] theorem clearDirty_outcome (s : State) : (clearDirty s).outcome = s.outcome := rfl

/-! ## The state after reset (10_state.md R40) -/

@[simp] theorem reset_V : State.reset.V = Vector.replicate 16 0 := rfl
@[simp] theorem reset_I : State.reset.I = 0 := rfl
@[simp] theorem reset_pc : State.reset.pc = 0 := rfl
@[simp] theorem reset_sp : State.reset.sp = 0 := rfl
@[simp] theorem reset_stack : State.reset.stack = Vector.replicate 16 0 := rfl
@[simp] theorem reset_mem : State.reset.mem = [] := rfl
@[simp] theorem reset_pixel : State.reset.pixel = Vector.replicate 32 (Vector.replicate 64 false) := rfl
@[simp] theorem reset_dirty : State.reset.dirty = false := rfl
@[simp] theorem reset_status : State.reset.status = .running := rfl
@[simp] theorem reset_drawOpcode : State.reset.drawOpcode = false := rfl
@[simp] theorem reset_rndIndex : State.reset.rndIndex = 0 := rfl
@[simp] theorem reset_outcome : State.reset.outcome = none := rfl

end Sys2Proof.Machine
end

