-- ==== Sys2Proof/Laws/Cycle.lean ====
section
/-! SUPPORT. The instruction cycle: when a fetch succeeds, what a raise answers, and everything a step can do. -/

namespace Sys2Proof.Machine

theorem raise_eq (info : FatalInfo) (s : State) : raise info s = .next (faultedWith info s) := rfl

theorem fetch_none {s : State} : fetch s = none ↔ 4094 < s.pc.toNat := by
  unfold fetch memSize
  split
  next h => simp; omega
  next h => simp; omega

theorem fetch_some {s : State} {op : Word16} :
    fetch s = some op ↔
      s.pc.toNat ≤ 4094 ∧ op = composeOpcode (memByte s s.pc.toNat) (memByte s (s.pc.toNat + 1)) := by
  unfold fetch memSize
  split
  next h => simp [eq_comm]; omega
  next h => simp; omega

/-- Everything a step that answers a next state can do: a failed fetch, an opcode without a row, or one instruction run
on the advanced state. -/
theorem step_cases {s t : State} (h : step s = .next t) :
    s.status = .running ∧
      ((fetch s = none ∧ t = faultedWith (.memoryOutOfRange s.pc.toNat) s) ∨
        (∃ op e, fetch s = some op ∧ decodeOpcode s.drawOpcode op = .error e ∧
          t = faultedWith (.unimplementedOpcode op) (advance s)) ∨
        (∃ op i, fetch s = some op ∧ decodeOpcode s.drawOpcode op = .ok i ∧ exec i (advance s) = .next t)) := by
  unfold step at h
  split at h
  next => cases h
  next hs =>
    refine ⟨hs, ?_⟩
    split at h
    next hf => exact .inl ⟨hf, (Host.Outcome.next.inj h).symm⟩
    next op hf =>
      split at h
      next e he => exact .inr (.inl ⟨op, e, hf, he, (Host.Outcome.next.inj h).symm⟩)
      next i hi => exact .inr (.inr ⟨op, i, hf, hi, h⟩)

/-- A step of a running machine whose fetch and decode succeed is the instruction on the advanced state. -/
theorem step_of_decode {s : State} {op : Word16} {i : Instr} (hs : s.status = .running) (hf : fetch s = some op)
    (hd : decodeOpcode s.drawOpcode op = .ok i) : step s = exec i (advance s) := by
  simp only [step, hs, hf, hd]

end Sys2Proof.Machine
end

