-- ==== Sys2Proof/Laws/Decode.lean ====
section
/-! SUPPORT. The fields of each format give back what the format was built from (30_encoding.md R91, R92, R110). -/

namespace Sys2Proof

/-- Bits of a concatenation below the low part's width are the low part's, the others the high part's. -/
theorem append_extract_high {h l : Nat} (a : BitVec h) (b : BitVec l) : (a ++ b).extractLsb' l h = a := by
  ext k hk
  simp [BitVec.getElem_extractLsb', BitVec.getLsbD_append, hk]

theorem append_extract_low {h l : Nat} (a : BitVec h) (b : BitVec l) {start len : Nat} (hlen : start + len ≤ l) :
    (a ++ b).extractLsb' start len = b.extractLsb' start len := by
  ext k hk
  have hk' : start + k < l := by omega
  simp [BitVec.getElem_extractLsb', BitVec.getLsbD_append, hk']

theorem extract_whole {w : Nat} (a : BitVec w) : a.extractLsb' 0 w = a := by
  ext k hk
  simp

@[simp] theorem fieldGroup_formatA (g : Nibble) (nnn : Addr12) : fieldGroup (formatA g nnn) = g :=
  append_extract_high g nnn

@[simp] theorem fieldNnn_formatA (g : Nibble) (nnn : Addr12) : fieldNnn (formatA g nnn) = nnn :=
  (append_extract_low g nnn (by decide)).trans (extract_whole nnn)

@[simp] theorem fieldGroup_formatI (g : Nibble) (x : RegIdx) (nn : Byte) : fieldGroup (formatI g x nn) = g :=
  append_extract_high g (x ++ nn)

@[simp] theorem fieldX_formatI (g : Nibble) (x : RegIdx) (nn : Byte) : fieldX (formatI g x nn) = x :=
  (append_extract_low g (x ++ nn) (by decide)).trans (append_extract_high x nn)

@[simp] theorem fieldNn_formatI (g : Nibble) (x : RegIdx) (nn : Byte) : fieldNn (formatI g x nn) = nn :=
  (append_extract_low g (x ++ nn) (by decide)).trans
    ((append_extract_low x nn (by decide)).trans (extract_whole nn))

@[simp] theorem fieldGroup_formatR (g : Nibble) (x y : RegIdx) (d : Nibble) : fieldGroup (formatR g x y d) = g :=
  append_extract_high g (x ++ (y ++ d))

@[simp] theorem fieldX_formatR (g : Nibble) (x y : RegIdx) (d : Nibble) : fieldX (formatR g x y d) = x :=
  (append_extract_low g (x ++ (y ++ d)) (by decide)).trans (append_extract_high x (y ++ d))

@[simp] theorem fieldY_formatR (g : Nibble) (x y : RegIdx) (d : Nibble) : fieldY (formatR g x y d) = y :=
  (append_extract_low g (x ++ (y ++ d)) (by decide)).trans
    ((append_extract_low x (y ++ d) (by decide)).trans (append_extract_high y d))

@[simp] theorem fieldD_formatR (g : Nibble) (x y : RegIdx) (d : Nibble) : fieldD (formatR g x y d) = d :=
  (append_extract_low g (x ++ (y ++ d)) (by decide)).trans
    ((append_extract_low x (y ++ d) (by decide)).trans ((append_extract_low y d (by decide)).trans (extract_whole d)))

/-- A value is the concatenation of its high and its low part. -/
theorem append_of_extract {h l : Nat} (a : BitVec (h + l)) : a.extractLsb' l h ++ a.extractLsb' 0 l = a := by
  ext k hk
  rw [← BitVec.getLsbD_eq_getElem, ← BitVec.getLsbD_eq_getElem, BitVec.getLsbD_append]
  split
  next hl => simp [hl]
  next hl =>
    have h1 : k - l < h := by omega
    have h2 : l + (k - l) = k := by omega
    simp [h1, h2]

theorem extract_of_low {w start len width : Nat} (a : BitVec w) (h : start + len ≤ width) :
    (a.extractLsb' 0 width).extractLsb' start len = a.extractLsb' start len := by
  ext k hk
  have hk' : start + k < width := by omega
  simp [hk']

/-- An opcode is the concatenation of its bytes, high byte first (20_memory.md R62). -/
theorem composeOpcode_bytes (op : Word16) : composeOpcode (op.extractLsb' 8 8) (op.extractLsb' 0 8) = op :=
  append_of_extract (h := 8) (l := 8) op

/-- The fields overlap: `nnn` is `x || nn`, and `nn` is `y || d` (R91). -/
theorem fieldNnn_eq (op : Word16) : fieldNnn op = fieldX op ++ fieldNn op := by
  have h := append_of_extract (h := 4) (l := 8) (fieldNnn op)
  rw [fieldNnn, extract_of_low op (by decide), extract_of_low op (by decide)] at h
  exact h.symm

theorem fieldNn_eq (op : Word16) : fieldNn op = fieldY op ++ fieldD op := by
  have h := append_of_extract (h := 4) (l := 4) (fieldNn op)
  rw [fieldNn, extract_of_low op (by decide), extract_of_low op (by decide)] at h
  exact h.symm

/-- Every opcode is the format A, I and R word of its own fields (R110). -/
theorem formatA_fields (op : Word16) : formatA (fieldGroup op) (fieldNnn op) = op :=
  append_of_extract (h := 4) (l := 12) op

theorem formatI_fields (op : Word16) : formatI (fieldGroup op) (fieldX op) (fieldNn op) = op := by
  have h := formatA_fields op
  rw [fieldNnn_eq] at h
  exact h

theorem formatR_fields (op : Word16) : formatR (fieldGroup op) (fieldX op) (fieldY op) (fieldD op) = op := by
  have h := formatI_fields op
  rw [fieldNn_eq] at h
  exact h

/-! ## The decoder group by group (30_encoding.md R102) -/

/-- The sixteen values of a nibble. -/
theorem nibble_cases (g : Nibble) :
    (g = 0x0 ∨ g = 0x1 ∨ g = 0x2 ∨ g = 0x3 ∨ g = 0x4 ∨ g = 0x5 ∨ g = 0x6 ∨ g = 0x7) ∨
      (g = 0x8 ∨ g = 0x9 ∨ g = 0xA ∨ g = 0xB ∨ g = 0xC ∨ g = 0xD ∨ g = 0xE ∨ g = 0xF) := by
  revert g
  decide

variable {d : Bool} {op : Word16}

theorem decodeOpcode_group0 (h : fieldGroup op = 0x0) :
    decodeOpcode d op = decodeGroup0 op := by
  simp [decodeOpcode, h]

theorem decodeOpcode_group1 (h : fieldGroup op = 0x1) :
    decodeOpcode d op = .ok (.jp (fieldNnn op)) := by
  simp [decodeOpcode, h]

theorem decodeOpcode_group2 (h : fieldGroup op = 0x2) :
    decodeOpcode d op = .ok (.call (fieldNnn op)) := by
  simp [decodeOpcode, h]

theorem decodeOpcode_group3 (h : fieldGroup op = 0x3) :
    decodeOpcode d op = .ok (.seImm (fieldX op) (fieldNn op)) := by
  simp [decodeOpcode, h]

theorem decodeOpcode_group4 (h : fieldGroup op = 0x4) :
    decodeOpcode d op = .ok (.sneImm (fieldX op) (fieldNn op)) := by
  simp [decodeOpcode, h]

theorem decodeOpcode_group5 (h : fieldGroup op = 0x5) :
    decodeOpcode d op = if fieldD op = 0x0#4 then .ok (.seReg (fieldX op) (fieldY op)) else .error (.unimplemented op) := by
  simp [decodeOpcode, h]

theorem decodeOpcode_group6 (h : fieldGroup op = 0x6) :
    decodeOpcode d op = .ok (.ldImm (fieldX op) (fieldNn op)) := by
  simp [decodeOpcode, h]

theorem decodeOpcode_group7 (h : fieldGroup op = 0x7) :
    decodeOpcode d op = .ok (.addImm (fieldX op) (fieldNn op)) := by
  simp [decodeOpcode, h]

theorem decodeOpcode_group8 (h : fieldGroup op = 0x8) :
    decodeOpcode d op = decodeGroup8 op := by
  simp [decodeOpcode, h]

theorem decodeOpcode_group9 (h : fieldGroup op = 0x9) :
    decodeOpcode d op = if fieldD op = 0x0#4 then .ok (.sneReg (fieldX op) (fieldY op)) else .error (.unimplemented op) := by
  simp [decodeOpcode, h]

theorem decodeOpcode_groupA (h : fieldGroup op = 0xA) :
    decodeOpcode d op = .ok (.ldI (fieldNnn op)) := by
  simp [decodeOpcode, h]

theorem decodeOpcode_groupB (h : fieldGroup op = 0xB) :
    decodeOpcode d op = .ok (.jpV0 (fieldNnn op)) := by
  simp [decodeOpcode, h]

theorem decodeOpcode_groupC (h : fieldGroup op = 0xC) :
    decodeOpcode d op = .ok (.rnd (fieldX op) (fieldNn op)) := by
  simp [decodeOpcode, h]

theorem decodeOpcode_groupD (h : fieldGroup op = 0xD) :
    decodeOpcode d op = if d then .ok (.drw (fieldX op) (fieldY op) (fieldD op)) else .error (.unimplemented op) := by
  simp [decodeOpcode, h]

theorem decodeOpcode_groupE (h : fieldGroup op = 0xE) :
    decodeOpcode d op = .error (.unimplemented op) := by
  simp [decodeOpcode, h]

theorem decodeOpcode_groupF (h : fieldGroup op = 0xF) :
    decodeOpcode d op = .error (.unimplemented op) := by
  simp [decodeOpcode, h]

end Sys2Proof
end

