-- ==== Sys2Proof/Laws/Display.lean ====
section
/-! SUPPORT. The pixel grid: what one toggle, one sprite bit and one sprite row do. -/

namespace Sys2Proof.Machine

theorem Grid.cell_toggle (g : Grid) (r r' : Fin 32) (c c' : Fin 64) :
    (g.toggle r c).cell r' c' = if r' = r ∧ c' = c then !g.cell r c else g.cell r' c' := by
  rcases r with ⟨r, hr⟩
  rcases r' with ⟨r', hr'⟩
  rcases c with ⟨c, hc⟩
  rcases c' with ⟨c', hc'⟩
  simp only [Grid.cell, Grid.toggle, Fin.getElem_fin, Vector.getElem_set, Fin.mk.injEq]
  by_cases h1 : r' = r
  · subst h1
    by_cases h2 : c' = c
    · subst h2; simp
    · have h2' : ¬ c = c' := fun e => h2 e.symm
      simp [h2, h2']
  · have h1' : ¬ r = r' := fun e => h1 e.symm
    simp [h1, h1']

/-- Two grids with the same cells are the same grid. -/
theorem Grid.ext_cell {g g' : Grid} (h : ∀ r c, g.cell r c = g'.cell r c) : g = g' := by
  apply Vector.ext
  intro r hr
  apply Vector.ext
  intro c hc
  exact h ⟨r, hr⟩ ⟨c, hc⟩

/-- A 0 bit does nothing (45_display.md R233). -/
theorem drawBit_clear {x0 y : Nat} {byte : Byte} {acc : Grid × Bool} {i : Nat} (h : byte.getLsbD (7 - i) = false) :
    drawBit x0 y byte acc i = acc := by
  simp [drawBit, h]

/-- A 1 bit toggles its cell and records whether the cell was set (R231). -/
theorem drawBit_set {x0 y : Nat} {byte : Byte} {acc : Grid × Bool} {i : Nat} (h : byte.getLsbD (7 - i) = true) :
    drawBit x0 y byte acc i =
      (acc.1.toggle (wrapRow y) (wrapCol (x0 + i)), acc.2 || acc.1.cell (wrapRow y) (wrapCol (x0 + i))) := by
  simp [drawBit, h]

theorem wrapRow_val (y : Nat) : (wrapRow y).val = y % 32 := rfl
theorem wrapCol_val (x : Nat) : (wrapCol x).val = x % 64 := rfl

@[simp] theorem drawRows_nil (x0 y : Nat) (acc : Grid × Bool) : drawRows x0 y [] acc = acc := rfl

theorem drawRows_cons (x0 y : Nat) (byte : Byte) (rest : List Byte) (acc : Grid × Bool) :
    drawRows x0 y (byte :: rest) acc = drawRows x0 (y + 1) rest (drawByte x0 y byte acc) := rfl

/-- All a draw can do to a state (R231, R238). -/
theorem draw_eq (x0 y0 : Nat) (bytes : List Byte) (s : State) :
    draw x0 y0 bytes s =
      ((drawSprite x0 y0 bytes s.pixel).2, withDisplay (drawSprite x0 y0 bytes s.pixel).1 true s) := rfl

end Sys2Proof.Machine
end

