-- ==== Sys2Proof/Laws/Memory.lean ====
section
/-! SUPPORT. Main memory: a write gives the byte back at its address, leaves every other address alone, and keeps the
canonical form; in that form equal memories are equal data. -/

namespace Sys2Proof.Machine

@[simp] theorem Mem.read_nil (addr : Nat) : Mem.read [] addr = 0 := rfl

theorem Mem.wfFrom_cons {low a : Nat} {b : Byte} {rest : Mem} :
    Mem.wfFrom low ((a, b) :: rest) = true ↔ low ≤ a ∧ a < memSize ∧ b ≠ 0 ∧ Mem.wfFrom (a + 1) rest = true := by
  simp [Mem.wfFrom, and_assoc]

theorem Mem.wfFrom_mono {low low' : Nat} (h : low' ≤ low) : ∀ {m : Mem}, Mem.wfFrom low m = true → Mem.wfFrom low' m = true
  | [], _ => rfl
  | (a, b) :: rest, hm => by
    rw [Mem.wfFrom_cons] at hm ⊢
    exact ⟨h.trans hm.1, hm.2⟩

/-- Below its lowest address a canonical memory reads as 0. -/
theorem Mem.read_below : ∀ {m : Mem} {low addr : Nat}, Mem.wfFrom low m = true → addr < low → Mem.read m addr = 0
  | [], _, _, _, _ => rfl
  | (a, b) :: rest, low, addr, hm, h => by
    rw [Mem.wfFrom_cons] at hm
    have hne : ¬ a = addr := by omega
    simpa [Mem.read, hne] using Mem.read_below hm.2.2.2 (by omega)

theorem Mem.read_write_same : ∀ {m : Mem} {low : Nat} (addr : Nat) (v : Byte), Mem.wfFrom low m = true →
    Mem.read (Mem.write m addr v) addr = v
  | [], _, addr, v, _ => by
    unfold Mem.write
    split
    next hv => simp [hv]
    next => simp [Mem.read]
  | (a, b) :: rest, low, addr, v, hm => by
    rw [Mem.wfFrom_cons] at hm
    unfold Mem.write
    split
    next hlt =>
      split
      next hv =>
        have hne : ¬ a = addr := by omega
        simp [Mem.read, hne, Mem.read_below hm.2.2.2 (show addr < a + 1 by omega), hv]
      next => simp [Mem.read]
    next hge =>
      split
      next he =>
        split
        next hv => rw [Mem.read_below hm.2.2.2 (show addr < a + 1 by omega), hv]
        next => simp [Mem.read]
      next hne =>
        have hne' : ¬ a = addr := fun e => hne e.symm
        simpa [Mem.read, hne'] using Mem.read_write_same addr v hm.2.2.2

theorem Mem.read_write_other : ∀ {m : Mem} {addr : Nat} (v : Byte) {other : Nat}, other ≠ addr →
    Mem.read (Mem.write m addr v) other = Mem.read m other
  | [], addr, v, other, h => by
    have h' : ¬ addr = other := fun e => h e.symm
    unfold Mem.write
    split <;> simp [Mem.read, h']
  | (a, b) :: rest, addr, v, other, h => by
    have h' : ¬ addr = other := fun e => h e.symm
    unfold Mem.write
    split
    next => split <;> simp [Mem.read, h']
    next =>
      split
      next he =>
        subst he
        split <;> simp [Mem.read, h']
      next => simp only [Mem.read, Mem.read_write_other v h]

theorem Mem.wfFrom_write : ∀ {m : Mem} {low addr : Nat} (v : Byte), Mem.wfFrom low m = true → low ≤ addr →
    addr < memSize → Mem.wfFrom low (Mem.write m addr v) = true
  | [], low, addr, v, _, hl, hs => by
    unfold Mem.write
    split
    next => rfl
    next hv => exact Mem.wfFrom_cons.2 ⟨hl, hs, hv, rfl⟩
  | (a, b) :: rest, low, addr, v, hm, hl, hs => by
    have hc := Mem.wfFrom_cons.1 hm
    unfold Mem.write
    split
    next hlt =>
      split
      next => exact hm
      next hv =>
        exact Mem.wfFrom_cons.2 ⟨hl, hs, hv, Mem.wfFrom_cons.2 ⟨hlt, hc.2⟩⟩
    next hge =>
      split
      next he =>
        split
        next => exact Mem.wfFrom_mono (by omega) hc.2.2.2
        next hv => exact Mem.wfFrom_cons.2 ⟨hl, hs, hv, he ▸ hc.2.2.2⟩
      next hne =>
        exact Mem.wfFrom_cons.2 ⟨hc.1, hc.2.1, hc.2.2.1, Mem.wfFrom_write v hc.2.2.2 (by omega) hs⟩

/-- A write inside memory keeps the canonical form. -/
theorem Mem.wf_write {m : Mem} {addr : Nat} (v : Byte) (hm : Mem.wf m = true) (hs : addr < memSize) :
    Mem.wf (Mem.write m addr v) = true :=
  Mem.wfFrom_write v hm (Nat.zero_le _) hs

/-- Bytes written to ascending addresses inside memory keep the canonical form. -/
theorem Mem.wf_writeBytes : ∀ {bytes : List Byte} {m : Mem} {addr : Nat}, Mem.wf m = true →
    addr + bytes.length ≤ memSize → Mem.wf (writeBytes addr bytes m) = true
  | [], _, _, hm, _ => hm
  | b :: rest, m, addr, hm, hs => by
    simp only [List.length_cons] at hs
    have h1 : Mem.wf (Mem.write m addr b) = true := Mem.wf_write b hm (by omega)
    exact Mem.wf_writeBytes (bytes := rest) (addr := addr + 1) h1 (by omega)

theorem Mem.wf_reset : Mem.wf State.reset.mem = true := rfl

/-- Equal memories are equal data. -/
theorem Mem.ext_of_wfFrom : ∀ {m m' : Mem} {low : Nat}, Mem.wfFrom low m = true → Mem.wfFrom low m' = true →
    (∀ addr, Mem.read m addr = Mem.read m' addr) → m = m'
  | [], [], _, _, _, _ => rfl
  | [], (a, b) :: rest, _, _, hm', h => by
    have h1 := h a
    simp only [Mem.read, if_true] at h1
    exact absurd h1.symm (Mem.wfFrom_cons.1 hm').2.2.1
  | (a, b) :: rest, [], _, hm, _, h => by
    have h1 := h a
    simp only [Mem.read, if_true] at h1
    exact absurd h1 (Mem.wfFrom_cons.1 hm).2.2.1
  | (a, b) :: rest, (a', b') :: rest', low, hm, hm', h => by
    have hc := Mem.wfFrom_cons.1 hm
    have hc' := Mem.wfFrom_cons.1 hm'
    have ha : a = a' := by
      rcases Nat.lt_trichotomy a a' with hlt | he | hgt
      · have h1 := h a
        have hne : ¬ a' = a := by omega
        simp only [Mem.read, if_true, if_neg hne, Mem.read_below hc'.2.2.2 (show a < a' + 1 by omega)] at h1
        exact absurd h1 hc.2.2.1
      · exact he
      · have h1 := h a'
        have hne : ¬ a = a' := by omega
        simp only [Mem.read, if_true, if_neg hne, Mem.read_below hc.2.2.2 (show a' < a + 1 by omega)] at h1
        exact absurd h1.symm hc'.2.2.1
    subst ha
    have hb : b = b' := by simpa [Mem.read] using h a
    subst hb
    have hr : rest = rest' := by
      refine Mem.ext_of_wfFrom hc.2.2.2 hc'.2.2.2 fun addr => ?_
      by_cases he : a = addr
      · subst he
        rw [Mem.read_below hc.2.2.2 (Nat.lt_succ_self a), Mem.read_below hc'.2.2.2 (Nat.lt_succ_self a)]
      · simpa [Mem.read, he] using h addr
    rw [hr]

/-- A slice is readable exactly when it is empty or inside memory (45_display.md R251). -/
theorem memSlice_eq_some {s : State} {addr n : Nat} {bytes : List Byte} :
    memSlice s addr n = some bytes ↔
      (n = 0 ∨ addr + n ≤ memSize) ∧ bytes = (List.range n).map fun j => memByte s (addr + j) := by
  unfold memSlice
  split <;> simp_all [eq_comm]

theorem memSlice_eq_none {s : State} {addr n : Nat} : memSlice s addr n = none ↔ n ≠ 0 ∧ memSize < addr + n := by
  unfold memSlice
  split
  next h => simp; omega
  next h => simp; omega

end Sys2Proof.Machine
end

