-- ==== Sys2Proof/Laws/Regs.lean ====
section
/-! SUPPORT. General registers: a read after a write, and the two writes of a flag-writing instruction (43_alu.md R191). -/

namespace Sys2Proof.Machine

theorem readV_congr {s t : State} (h : t.V = s.V) (r : RegIdx) : readV t r = readV s r := by
  simp only [readV, h]

theorem readV_writeV (s : State) (x r : RegIdx) (b : Byte) :
    readV (writeV s x b) r = if r = x then b else readV s r := by
  simp only [readV, writeV_V, Vector.getElem_set]
  by_cases h : r = x
  · simp [h]
  · have hn : ¬ x.toNat = r.toNat := fun e => h (BitVec.eq_of_toNat_eq e.symm)
    simp [h, hn]

@[simp] theorem readV_writeV_same (s : State) (x : RegIdx) (b : Byte) : readV (writeV s x b) x = b := by
  simp [readV_writeV]

theorem readV_writeV_other (s : State) {x r : RegIdx} (b : Byte) (h : r ≠ x) :
    readV (writeV s x b) r = readV s r := by
  simp [readV_writeV, h]

@[simp] theorem readV_setPc (s : State) (v : Word16) (r : RegIdx) : readV (setPc s v) r = readV s r := rfl
@[simp] theorem readV_setI (s : State) (v : Word16) (r : RegIdx) : readV (setI s v) r = readV s r := rfl
@[simp] theorem readV_consumeRnd (s : State) (r : RegIdx) : readV (consumeRnd s) r = readV s r := rfl
@[simp] theorem readV_signalHalt (s : State) (r : RegIdx) : readV (signalHalt s) r = readV s r := rfl
@[simp] theorem readV_advance (s : State) (r : RegIdx) : readV (advance s) r = readV s r := rfl
@[simp] theorem readV_faultedWith (s : State) (info : FatalInfo) (r : RegIdx) :
    readV (faultedWith info s) r = readV s r := rfl
@[simp] theorem readV_withDisplay (s : State) (g : Grid) (d : Bool) (r : RegIdx) :
    readV (withDisplay g d s) r = readV s r := rfl

/-- The flag is what remains in `V[15]`, also when the result went there first. -/
theorem readV_writeResultThenFlag_vf (s : State) (x : RegIdx) (result flag : Byte) :
    readV (writeResultThenFlag s x result flag) vf = flag := by
  simp [writeResultThenFlag]

theorem readV_writeResultThenFlag_dest (s : State) {x : RegIdx} (result flag : Byte) (h : x ≠ vf) :
    readV (writeResultThenFlag s x result flag) x = result := by
  simp [writeResultThenFlag, readV_writeV_other _ _ h]

theorem readV_writeResultThenFlag_other (s : State) {x r : RegIdx} (result flag : Byte) (hx : r ≠ x) (hf : r ≠ vf) :
    readV (writeResultThenFlag s x result flag) r = readV s r := by
  simp [writeResultThenFlag, readV_writeV_other _ _ hf, readV_writeV_other _ _ hx]

/-- The frame of a register write. -/
theorem writeV_frame (s : State) (x : RegIdx) (b : Byte) : OnlyRegsChange [x] s (writeV s x b) := by
  refine ⟨fun r hr => readV_writeV_other s b ?_, rfl, rfl, ⟨rfl, rfl⟩, fun _ => rfl, ⟨rfl, rfl⟩, ⟨rfl, rfl, rfl⟩, rfl⟩
  simpa using hr

/-- The frame of a result followed by a flag. -/
theorem writeResultThenFlag_frame (s : State) (x : RegIdx) (result flag : Byte) :
    OnlyRegsChange [x, vf] s (writeResultThenFlag s x result flag) := by
  refine ⟨fun r hr => ?_, rfl, rfl, ⟨rfl, rfl⟩, fun _ => rfl, ⟨rfl, rfl⟩, ⟨rfl, rfl, rfl⟩, rfl⟩
  simp only [List.mem_cons, List.not_mem_nil, or_false, not_or] at hr
  exact readV_writeResultThenFlag_other s result flag hr.1 hr.2

/-- The frame of a change of `pc`. -/
theorem setPc_frame (s : State) (target : Word16) : OnlyPcChanges s (setPc s target) :=
  ⟨fun _ _ => rfl, rfl, ⟨rfl, rfl⟩, fun _ => rfl, ⟨rfl, rfl⟩, ⟨rfl, rfl, rfl⟩, rfl⟩

/-- All a skip can do (41_skips.md R150). -/
theorem skipIf_spec (cond : Bool) (s : State) :
    (skipIf cond s).pc = (if cond then s.pc + 2 else s.pc) ∧ OnlyPcChanges s (skipIf cond s) := by
  cases cond
  · exact ⟨rfl, fun _ _ => rfl, rfl, ⟨rfl, rfl⟩, fun _ => rfl, ⟨rfl, rfl⟩, ⟨rfl, rfl, rfl⟩, rfl⟩
  · exact ⟨rfl, setPc_frame s _⟩

/-- The byte of the flag: 1 or 0 (10_state.md R23). -/
theorem flagByte_eq (b : Bool) : flagByte b = if b then 1 else 0 := rfl

end Sys2Proof.Machine
end

