-- ==== Sys2Proof/Laws/Operands.lean ====
section
/-! SUPPORT. Operand forms as numbers: nothing is sign-extended, scaled or masked (30_encoding.md R93). -/

namespace Sys2Proof.Machine

@[simp] theorem absAddr_toNat (nnn : Addr12) : (absAddr nnn).toNat = nnn.toNat := by
  have h := nnn.isLt
  simp only [absAddr, BitVec.toNat_setWidth]
  omega

/-- The indexed target is the exact sum, at most `0x10FE` (40_cycle_and_control.md R130). -/
theorem indexedAddr_toNat (s : State) (nnn : Addr12) :
    (indexedAddr s nnn).toNat = (readV s 0).toNat + nnn.toNat := by
  have h := nnn.isLt
  have h' := (readV s 0).isLt
  simp only [indexedAddr, BitVec.toNat_add, BitVec.toNat_setWidth]
  omega

/-- The common advance does not wrap below the top of memory (40_cycle_and_control.md R123). -/
theorem advance_toNat {s : State} (h : s.pc.toNat ≤ 4094) : (advance s).pc.toNat = s.pc.toNat + 2 := by
  have h2 : (2 : Word16).toNat = 2 := rfl
  rw [advance_pc, BitVec.toNat_add, h2]
  omega

end Sys2Proof.Machine
end

