-- ==== Sys2Proof/Laws/PerInstr.lean ====
section
/-! SUPPORT. A statement about each instruction as syntax: its opcode selects its row of the opcode map
(30_encoding.md R100), and its row is in the map of the full configuration. -/

namespace Sys2Proof.Laws.Row

/-- The opcode of `i` lies in the row of `i`, which is a row of the map. -/
def Statement (i : Instr) : Prop := selectsRow (encode i) (rowOf i) ∧ rowOf i ∈ opcodeTable true

/-! What each row's mask keeps of a format: its fixed bits. -/

theorem mask_formatA (g : Nibble) (nnn : Addr12) : formatA g nnn &&& 0xF000#16 = formatA g 0 := by
  have h : (0xF000#16) = (0xF#4 ++ 0x000#12) := by decide
  have hg : g &&& 0xF#4 = g := BitVec.and_allOnes
  rw [h, formatA, formatA, BitVec.and_append, hg, BitVec.and_zero]
  rfl

theorem mask_formatI (g : Nibble) (x : RegIdx) (nn : Byte) : formatI g x nn &&& 0xF000#16 = formatA g 0 :=
  mask_formatA g (x ++ nn)

theorem mask_formatR (g : Nibble) (x y : RegIdx) (d : Nibble) :
    formatR g x y d &&& 0xF00F#16 = formatR g 0 0 d := by
  have h : (0xF00F#16) = (0xF#4 ++ (0x0#4 ++ (0x0#4 ++ 0xF#4))) := by decide
  have hg : ∀ a : Nibble, a &&& 0xF#4 = a := fun a => BitVec.and_allOnes
  rw [h, formatR, formatR, BitVec.and_append, BitVec.and_append, BitVec.and_append, hg, hg, BitVec.and_zero,
    BitVec.and_zero]
  rfl

theorem mask_formatR_groupOnly (g : Nibble) (x y : RegIdx) (d : Nibble) :
    formatR g x y d &&& 0xF000#16 = formatA g 0 :=
  mask_formatA g (x ++ (y ++ d))

theorem halt : Statement .halt := by unfold Statement; decide
theorem ret : Statement .ret := by unfold Statement; decide
theorem jp (nnn : Addr12) : Statement (.jp nnn) := ⟨(mask_formatA 0x1 nnn).trans rfl, by simp [rowOf, opcodeTable]⟩
theorem call (nnn : Addr12) : Statement (.call nnn) := ⟨(mask_formatA 0x2 nnn).trans rfl, by simp [rowOf, opcodeTable]⟩
theorem seImm (x : RegIdx) (nn : Byte) : Statement (.seImm x nn) :=
  ⟨(mask_formatI 0x3 x nn).trans rfl, by simp [rowOf, opcodeTable]⟩
theorem sneImm (x : RegIdx) (nn : Byte) : Statement (.sneImm x nn) :=
  ⟨(mask_formatI 0x4 x nn).trans rfl, by simp [rowOf, opcodeTable]⟩
theorem ldImm (x : RegIdx) (nn : Byte) : Statement (.ldImm x nn) :=
  ⟨(mask_formatI 0x6 x nn).trans rfl, by simp [rowOf, opcodeTable]⟩
theorem addImm (x : RegIdx) (nn : Byte) : Statement (.addImm x nn) :=
  ⟨(mask_formatI 0x7 x nn).trans rfl, by simp [rowOf, opcodeTable]⟩
theorem rnd (x : RegIdx) (nn : Byte) : Statement (.rnd x nn) :=
  ⟨(mask_formatI 0xC x nn).trans rfl, by simp [rowOf, opcodeTable]⟩
theorem seReg (x y : RegIdx) : Statement (.seReg x y) :=
  ⟨(mask_formatR 0x5 x y 0x0).trans rfl, by simp [rowOf, opcodeTable]⟩
theorem ldReg (x y : RegIdx) : Statement (.ldReg x y) :=
  ⟨(mask_formatR 0x8 x y 0x0).trans rfl, by simp [rowOf, opcodeTable]⟩
theorem orReg (x y : RegIdx) : Statement (.orReg x y) :=
  ⟨(mask_formatR 0x8 x y 0x1).trans rfl, by simp [rowOf, opcodeTable]⟩
theorem andReg (x y : RegIdx) : Statement (.andReg x y) :=
  ⟨(mask_formatR 0x8 x y 0x2).trans rfl, by simp [rowOf, opcodeTable]⟩
theorem xorReg (x y : RegIdx) : Statement (.xorReg x y) :=
  ⟨(mask_formatR 0x8 x y 0x3).trans rfl, by simp [rowOf, opcodeTable]⟩
theorem addReg (x y : RegIdx) : Statement (.addReg x y) :=
  ⟨(mask_formatR 0x8 x y 0x4).trans rfl, by simp [rowOf, opcodeTable]⟩
theorem sub (x y : RegIdx) : Statement (.sub x y) :=
  ⟨(mask_formatR 0x8 x y 0x5).trans rfl, by simp [rowOf, opcodeTable]⟩
theorem shr (x y : RegIdx) : Statement (.shr x y) :=
  ⟨(mask_formatR 0x8 x y 0x6).trans rfl, by simp [rowOf, opcodeTable]⟩
theorem subn (x y : RegIdx) : Statement (.subn x y) :=
  ⟨(mask_formatR 0x8 x y 0x7).trans rfl, by simp [rowOf, opcodeTable]⟩
theorem shl (x y : RegIdx) : Statement (.shl x y) :=
  ⟨(mask_formatR 0x8 x y 0xE).trans rfl, by simp [rowOf, opcodeTable]⟩
theorem sneReg (x y : RegIdx) : Statement (.sneReg x y) :=
  ⟨(mask_formatR 0x9 x y 0x0).trans rfl, by simp [rowOf, opcodeTable]⟩
theorem ldI (nnn : Addr12) : Statement (.ldI nnn) := ⟨(mask_formatA 0xA nnn).trans rfl, by simp [rowOf, opcodeTable]⟩
theorem jpV0 (nnn : Addr12) : Statement (.jpV0 nnn) := ⟨(mask_formatA 0xB nnn).trans rfl, by simp [rowOf, opcodeTable]⟩
theorem drw (x y : RegIdx) (n : Nibble) : Statement (.drw x y n) :=
  ⟨(mask_formatR_groupOnly 0xD x y n).trans rfl, by simp [rowOf, opcodeTable]⟩

end Sys2Proof.Laws.Row
end

