-- ==== Sys2Proof/Laws/Stack.lean ====
section
/-! SUPPORT. The call stack: everything a push and a pop can do (10_state.md R33). -/

namespace Sys2Proof.Machine

theorem push_none {s : State} {v : Word16} : push s v = none ↔ s.sp.val = 16 := by
  unfold push
  split
  next h => simp; omega
  next h => simp; omega

/-- A push answers only below 16 entries; it writes slot `sp` and counts it. -/
theorem push_some {s t : State} {v : Word16} (h : push s v = some t) :
    ∃ hlt : s.sp.val < 16,
      t = { s with stack := s.stack.set s.sp.val v hlt, sp := ⟨s.sp.val + 1, Nat.succ_lt_succ hlt⟩ } := by
  unfold push at h
  split at h
  next hlt => exact ⟨hlt, (Option.some.inj h).symm⟩
  next => cases h

theorem push_of_lt {s : State} (v : Word16) (h : s.sp.val < 16) :
    push s v = some { s with stack := s.stack.set s.sp.val v h, sp := ⟨s.sp.val + 1, Nat.succ_lt_succ h⟩ } := by
  rw [push, dif_pos h]

theorem pop_none {s : State} : pop s = none ↔ s.sp.val = 0 := by
  unfold pop
  split
  next h => simp; omega
  next h => simp; omega

/-- A pop answers only above 0 entries; it gives slot `sp - 1`, which keeps its content. -/
theorem pop_some {s t : State} {v : Word16} (h : pop s = some (v, t)) :
    ∃ hpos : 0 < s.sp.val,
      v = s.stack[s.sp.val - 1]'(by omega) ∧ t = { s with sp := ⟨s.sp.val - 1, by omega⟩ } := by
  unfold pop at h
  split at h
  next hpos =>
    have := Option.some.inj h
    exact ⟨hpos, (congrArg Prod.fst this).symm, (congrArg Prod.snd this).symm⟩
  next => cases h

theorem pop_of_pos {s : State} (h : 0 < s.sp.val) :
    pop s = some (s.stack[s.sp.val - 1]'(by omega), { s with sp := ⟨s.sp.val - 1, by omega⟩ }) := by
  rw [pop, dif_pos h]

end Sys2Proof.Machine
end

