-- ==== Sys2Proof/Tests/Slice0.lean ====
section
/-! SUPPORT. Tests of single steps, with the expected values of spec/95_test_vectors.md (section named at each), the
well-formedness smoke test, and a witness for the hypotheses of every statement that has some. -/

namespace Sys2Proof.Tests

open Machine

/-! ## Helpers -/

/-- The next state of an instruction on a state, if there is one. -/
def after (i : Instr) (s : State) : Option State :=
  match exec i s with
  | .next t => some t
  | .fault _ => none
  | .refused _ => none

/-- The next state of a step. -/
def stepped (s : State) : Option State :=
  match step s with
  | .next t => some t
  | .fault _ => none
  | .refused _ => none

/-- Registers `x`, `y` at `a`, `b` in the reset state. -/
def regs (x : RegIdx) (a : Byte) (y : RegIdx) (b : Byte) : State := writeV (writeV State.reset x a) y b

/-- The opcode bytes at an address, and `pc` there. -/
def at_ (addr : Nat) (bytes : List Byte) : State :=
  { State.reset with pc := BitVec.ofNat 16 addr, mem := writeBytes addr bytes [] }

/-- `sp` at `n` with every slot holding `v`. -/
def depth (n : Fin 17) (v : Word16) : State := { State.reset with sp := n, stack := Vector.replicate 16 v, pc := 0x202 }

/-- Register `x` and `VF` of a state. -/
def resultAndFlag (x : RegIdx) (t : Option State) : Option (Byte × Byte) := t.map fun u => (readV u x, readV u 15)

/-- The draw configuration with `I`, and `V[1]`, `V[2]` as origins. -/
def drawing (index : Word16) (x y : Byte) (mem : Mem) : State :=
  { regs 1 x 2 y with I := index, mem := mem, drawOpcode := true }

/-- The cells of a grid that are set, in row-major order. -/
def setCells (g : Grid) : List (Nat × Nat) :=
  (List.range 32).flatMap fun r => (List.range 64).filterMap fun c =>
    if g.cell (wrapRow r) (wrapCol c) then some (r, c) else none

/-! ## Well-formedness (00_scope.md R8): the one check, and an ill-formed term it refuses -/

theorem test_drw_is_ill_formed_in_baseline : wellFormed false (.drw 1 2 5) = false := by decide
theorem test_drw_is_well_formed_with_parameter : wellFormed true (.drw 1 2 5) = true := by decide
theorem test_baseline_instruction_is_well_formed : wellFormed false (.rnd 15 0xFF) = true := by decide

/-! ## Every constructor's word, written out from 30_encoding.md R92, R100 (and 95, section 2.1) -/

theorem test_decode_control :
    decodeOpcode false 0b0000000000000000 = .ok .halt ∧ decodeOpcode false 0b0000000011101110 = .ok .ret ∧
    decodeOpcode false 0b0001101010111100 = .ok (.jp 0xABC) ∧ decodeOpcode false 0b0010000100000000 = .ok (.call 0x100) ∧
    decodeOpcode false 0b1011000000010000 = .ok (.jpV0 0x010) := by decide

theorem test_decode_skips :
    decodeOpcode false 0b0011000100100010 = .ok (.seImm 1 0x22) ∧ decodeOpcode false 0b0100001000010001 = .ok (.sneImm 2 0x11) ∧
    decodeOpcode false 0b0101101010110000 = .ok (.seReg 0xA 0xB) ∧
    decodeOpcode false 0b1001000100110000 = .ok (.sneReg 1 3) := by decide

theorem test_decode_immediate :
    decodeOpcode false 0b0110001100101010 = .ok (.ldImm 3 0x2A) ∧ decodeOpcode false 0b0111000011111111 = .ok (.addImm 0 0xFF) ∧
    decodeOpcode false 0b1010001011110000 = .ok (.ldI 0x2F0) := by decide

theorem test_decode_alu :
    decodeOpcode false 0b1000001011110000 = .ok (.ldReg 2 0xF) ∧ decodeOpcode false 0b1000100010010001 = .ok (.orReg 8 9) ∧
    decodeOpcode false 0b1000101010010010 = .ok (.andReg 0xA 9) ∧ decodeOpcode false 0b1000101110010011 = .ok (.xorReg 0xB 9) ∧
    decodeOpcode false 0b1000000000010100 = .ok (.addReg 0 1) ∧ decodeOpcode false 0b1000000000010101 = .ok (.sub 0 1) ∧
    decodeOpcode false 0b1000010000000110 = .ok (.shr 4 0) ∧ decodeOpcode false 0b1000101010110111 = .ok (.subn 0xA 0xB) ∧
    decodeOpcode false 0b1000101010111110 = .ok (.shl 0xA 0xB) := by decide

theorem test_decode_random_and_draw :
    decodeOpcode false 0b1100111100001111 = .ok (.rnd 0xF 0x0F) ∧ decodeOpcode true 0b1101000100100101 = .ok (.drw 1 2 5) ∧
    decodeOpcode false 0b1101000100100101 = .error (.unimplemented 0xD125) := by decide

theorem test_decode_rejects :
    decodeOpcode true 0x0001 = .error (.unimplemented 0x0001) ∧ decodeOpcode true 0x00E0 = .error (.unimplemented 0x00E0) ∧
    decodeOpcode true 0x01EE = .error (.unimplemented 0x01EE) ∧ decodeOpcode true 0x812F = .error (.unimplemented 0x812F) ∧
    decodeOpcode true 0x9121 = .error (.unimplemented 0x9121) ∧ decodeOpcode true 0xFFFF = .error (.unimplemented 0xFFFF) ∧
    decode true [0x12] = .error .truncated := by decide

/-- 95, section 2.2: bytes `12 34` are opcode `0x1234`, not `0x3412`. -/
theorem test_decode_is_big_endian : decode false [0x12, 0x34, 0x56] = .ok (.jp 0x234, [0x56]) := by decide

theorem test_table_word : decodeTableWord 16 0x8AB7 = some (.subn 0xA 0xB) ∧ decodeTableWord 16 0xD125 = some (.drw 1 2 5) ∧
    decodeTableWord 16 0x00E0 = none := by decide

/-! ## The host's fetch of one table word -/

/-- The host's question on the word `w`: the step after `withFetchWord` is the decoded instruction, advanced. -/
theorem test_fetch_word_runs_call :
    (stepped (State.reset.withFetchWord 16 0x2ABC)).map (fun t => (t.pc, t.sp.val, t.stack.get 0)) = some (0xABC, 1, 2) := by
  decide

theorem test_fetch_word_runs_draw :
    (stepped (State.reset.withFetchWord 16 0xD125)).map (fun t => (t.pc, t.dirty, t.status)) = some (2, true, .running) := by
  decide

/-! ## Fetch and dispatch (95, sections 2.2 and 2.9) -/

theorem test_fetch_at_top_of_memory : fetch (at_ 4094 [0x60, 0x01]) = some 0x6001 ∧ fetch (at_ 4095 [0x60]) = none := by decide

theorem test_fetch_at_odd_address : fetch (at_ 0x201 [0x34, 0x56]) = some 0x3456 := by decide

theorem test_fetch_fault_keeps_pc :
    (stepped (at_ 4095 [0x00])).map (fun t => (t.pc, t.status)) = some (0xFFF, .faulted .memoryOutOfRange) := by decide

theorem test_unimplemented_advances_pc :
    (stepped (at_ 0x200 [0x00, 0xE0])).map (fun t => (t.pc, t.status, t.outcome)) =
      some (0x202, .faulted .unimplementedOpcode, some (.fault (.unimplementedOpcode 0x00E0))) := by decide

theorem test_draw_opcode_is_unimplemented_in_baseline :
    (stepped (at_ 0x200 [0xD1, 0x22])).map (fun t => (t.pc, t.status)) = some (0x202, .faulted .unimplementedOpcode) := by
  decide

theorem test_cause_codes : causeCode .memoryOutOfRange = 1 ∧ causeCode .unimplementedOpcode = 2 ∧
    causeCode .stackOverflow = 3 ∧ causeCode .stackUnderflow = 4 := by decide

/-! ## Control transfer (95, section 2.3) -/

theorem test_halt_is_not_latched :
    (stepped (at_ 0x004 [0x00, 0x00])).map (fun t => (t.pc, t.status, t.outcome)) =
      some (0x006, .running, some .haltSignal) := by decide

theorem test_jp : (stepped (at_ 0x20A [0x12, 0x04])).map (fun t => (t.pc, t.outcome)) = some (0x204, some .cont) := by decide

theorem test_call_sixteenth_succeeds :
    (after (.call 0xABC) (depth 15 0)).map (fun t => (t.pc, t.sp.val, t.stack.get 15)) = some (0xABC, 16, 0x202) := by decide

theorem test_call_seventeenth_overflows :
    (after (.call 0xABC) (depth 16 7)).map (fun t => (t.pc, t.sp.val, t.status)) =
      some (0x202, 16, .faulted .stackOverflow) := by decide

theorem test_ret_keeps_slot :
    (after .ret (depth 2 0x456)).map (fun t => (t.pc, t.sp.val, t.stack.get 1)) = some (0x456, 1, 0x456) := by decide

theorem test_ret_underflows :
    (after .ret (depth 0 7)).map (fun t => (t.pc, t.sp.val, t.status)) = some (0x202, 0, .faulted .stackUnderflow) := by decide

theorem test_jpV0_is_not_masked : (after (.jpV0 0xFFF) (regs 0 0xFF 1 0)).map (·.pc) = some 0x10FE := by decide

theorem test_jpV0_odd : (after (.jpV0 0x200) (regs 0 0x01 1 0)).map (·.pc) = some 0x201 := by decide

/-! ## Skips (95, sections S2 and 2.4) -/

theorem test_seImm_holds : (stepped { regs 1 0x22 2 0 with pc := 0x200, mem := writeBytes 0x200 [0x31, 0x22] [] }).map (·.pc) =
    some 0x204 := by decide
theorem test_seImm_fails : (after (.seImm 1 0x23) (regs 1 0x22 2 0)).map (·.pc) = some 0 := by decide
theorem test_sneImm_holds : (after (.sneImm 1 0x23) (regs 1 0x22 2 0)).map (·.pc) = some 2 := by decide
theorem test_sneImm_fails : (after (.sneImm 1 0x22) (regs 1 0x22 2 0)).map (·.pc) = some 0 := by decide
theorem test_seReg_holds : (after (.seReg 1 2) (regs 1 0x22 2 0x22)).map (·.pc) = some 2 := by decide
theorem test_seReg_fails : (after (.seReg 1 3) (regs 1 0x22 3 0x23)).map (·.pc) = some 0 := by decide
theorem test_sneReg_holds : (after (.sneReg 1 3) (regs 1 0x22 3 0x23)).map (·.pc) = some 2 := by decide
theorem test_sneReg_fails : (after (.sneReg 1 2) (regs 1 0x22 2 0x22)).map (·.pc) = some 0 := by decide

/-! ## Immediate and index (95, section 2.5) -/

theorem test_ldImm : (stepped (at_ 0x200 [0x6A, 0x37])).map (fun t => (readV t 10, t.pc)) = some (0x37, 0x202) := by decide
theorem test_addImm_records_no_carry : resultAndFlag 0 (after (.addImm 0 0x01) (regs 0 0xFF 15 1)) = some (0x00, 1) := by decide
theorem test_addImm_to_vf : resultAndFlag 15 (after (.addImm 15 0x03) (regs 15 0xFE 0 0)) = some (0x01, 0x01) := by decide
theorem test_ldI_clears_upper_bits : (after (.ldI 0x000) { State.reset with I := 0xFFFF }).map (·.I) = some 0 := by decide
theorem test_ldI : (after (.ldI 0xFFF) State.reset).map (·.I) = some 0x0FFF := by decide

/-! ## Register-to-register (95, section 2.6) -/

theorem test_ldReg : resultAndFlag 1 (after (.ldReg 1 2) (regs 1 0xF0 2 0x8F)) = some (0x8F, 0) := by decide
theorem test_orReg : resultAndFlag 1 (after (.orReg 1 2) (regs 1 0xF0 2 0x8F)) = some (0xFF, 0) := by decide
theorem test_andReg : resultAndFlag 1 (after (.andReg 1 2) (regs 1 0xF0 2 0x8F)) = some (0x80, 0) := by decide
theorem test_xorReg : resultAndFlag 1 (after (.xorReg 1 2) (regs 1 0xF0 2 0x8F)) = some (0x7F, 0) := by decide
theorem test_addReg_exactly_256 : resultAndFlag 1 (after (.addReg 1 2) (regs 1 0x80 2 0x80)) = some (0x00, 1) := by decide
theorem test_addReg_flag_wins : resultAndFlag 15 (after (.addReg 15 1) (regs 15 0xF0 1 0x20)) = some (1, 1) := by decide
theorem test_sub_borrows : resultAndFlag 1 (after (.sub 1 2) (regs 1 0x0A 2 0x14)) = some (0xF6, 1) := by decide
theorem test_sub_equal : resultAndFlag 1 (after (.sub 1 2) (regs 1 0x33 2 0x33)) = some (0x00, 0) := by decide
theorem test_subn_no_borrow : resultAndFlag 1 (after (.subn 1 2) (regs 1 0x0A 2 0x14)) = some (0x0A, 1) := by decide
theorem test_subn_equal : resultAndFlag 1 (after (.subn 1 2) (regs 1 0x33 2 0x33)) = some (0x00, 1) := by decide
theorem test_shr_source_is_vy : resultAndFlag 1 (after (.shr 1 2) (regs 1 0x77 2 0x03)) = some (0x01, 1) := by decide
theorem test_shr_of_vf : resultAndFlag 1 (after (.shr 1 15) (regs 15 0x03 1 0)) = some (0x01, 1) := by decide
theorem test_shl_source_is_vy : resultAndFlag 1 (after (.shl 1 2) (regs 1 0x77 2 0x80)) = some (0x00, 1) := by decide
theorem test_shl_of_vf : resultAndFlag 1 (after (.shl 1 15) (regs 15 0xC0 1 0)) = some (0x80, 1) := by decide

/-! ## Random (95, section 2.7): only what the mask fixes -/

theorem test_rnd_zero_mask : ∃ t, exec (.rnd 0 0x00) State.reset = .next t ∧ readV t 0 = 0 ∧ t.rndIndex = 1 :=
  ⟨_, rfl, by rw [readV_writeV_same]; simp, rfl⟩

/-! ## Display (95, section 2.8) -/

theorem test_draw_wraps_both_ways :
    setCells (drawSprite 255 255 [0xFF, 0x81] State.reset.pixel).1 =
      [(0, 6), (0, 63), (31, 0), (31, 1), (31, 2), (31, 3), (31, 4), (31, 5), (31, 6), (31, 63)] := by decide

set_option maxRecDepth 4000 in
theorem test_draw_33_rows_meets_itself :
    (drawSprite 0 0 (0x80 :: List.replicate 31 0 ++ [0x80]) State.reset.pixel).2 = true := by decide

theorem test_render_buffer :
    ((toRenderBuffer 0xFFFFFF 0 (drawSprite 63 0 [0x80, 0x40] State.reset.pixel).1).drop 62).take 4 =
      [0, 0x00FFFFFF, 0x00FFFFFF, 0] := by decide

/-- `0xD122` with `I = 0x300`, `V[1] = 63`, `V[2] = 0`, `mem[0x300..0x301] = 80 40`. -/
theorem test_drw :
    (after (.drw 1 2 2) (drawing 0x300 63 0 [(0x300, 0x80), (0x301, 0x40)])).map
        (fun t => (setCells t.pixel, readV t 15, t.dirty, t.I)) = some ([(0, 63), (1, 0)], 0, true, 0x300) := by decide

theorem test_drw_slice_past_memory :
    (after (.drw 1 2 15) (drawing 0xFF2 0 0 [])).map (fun t => (t.status, t.dirty, readV t 15)) =
      some (.faulted .memoryOutOfRange, false, 0) := by decide

/-! ## Host -/

theorem test_host_write : (hostWriteMem 4095 7 State.reset).map (fun t => memByte t 4095) = some 7 ∧
    (hostWriteMem 4096 7 State.reset).isNone = true := by decide

theorem test_writing_zero_removes_the_entry : Mem.write [(5, 1)] 5 0 = [] := by decide

/-! ## Witnesses: a concrete state and operands for the hypotheses of every statement that has some -/

/-- A state at the bounds of the invariant: `pc = 0x10FE`, one valid stack entry 4096. -/
def bound : State := { depth 1 4096 with pc := 0x10FE }

theorem witness_invariant : Inv bound := by
  refine ⟨rfl, by decide, by decide, fun kind => ⟨fun h => ?_, fun h => ?_⟩⟩
  · cases h
  · obtain ⟨info, h, -⟩ := h
    cases h

theorem witness_StepKeepsInvariant : ∃ s t, Inv s ∧ step s = .next t := by
  refine ⟨bound, faultedWith (.memoryOutOfRange bound.pc.toNat) bound, witness_invariant, ?_⟩
  have hs : bound.status = .running := rfl
  simp only [step, hs, fetch_none.2 (show 4094 < bound.pc.toNat by decide), fetchFault, raise_eq]

theorem witness_HostTransactionsKeepInvariant :
    Inv bound ∧ (hostWriteMem 4095 1 bound).isSome = true ∧ (loadImage 4094 [1, 2] bound).isSome = true ∧
      (0x10FE#16).toNat ≤ 0x10FE ∧ (∀ v ∈ [0#16, 4096#16], v.toNat ≤ 4096) ∧
      (hostSeedStack [0, 4096] bound).isSome = true :=
  ⟨witness_invariant, by decide, by decide, by decide, by simp, by decide⟩

theorem witness_DecodeOfEncodeIsIdentity : wellFormed false (.jp 0xFFF) = true ∧ wellFormed true (.drw 15 15 15) = true := by
  decide

theorem witness_DecodedOpcodeIsItsEncoding : decodeOpcode true 0xDFFF = .ok (.drw 15 15 15) := by decide

theorem witness_DecoderFollowsOpcodeMap : decodeOpcode false 0x8FFE = .ok (.shl 15 15) ∧
    (⟨0x800E, 0xF00F⟩ : OpcodeRow) ∈ opcodeTable false ∧ selectsRow 0x8FFE ⟨0x800E, 0xF00F⟩ := by decide

theorem witness_OpcodeRowsAreDisjoint : (⟨0x00EE, 0xFFFF⟩ : OpcodeRow) ∈ opcodeTable true ∧
    selectsRow 0x00EE ⟨0x00EE, 0xFFFF⟩ := by decide

theorem witness_FetchIsBigEndianOrFaults :
    (at_ 4094 []).status = .running ∧ (at_ 4094 []).pc.toNat ≤ 4094 ∧ (at_ 4095 []).status = .running ∧
      4094 < (at_ 4095 []).pc.toNat := by decide

theorem witness_StepRunsDecodedInstruction :
    (at_ 4094 [0x60, 0x01]).status = .running ∧ (at_ 4094 [0x60, 0x01]).pc.toNat ≤ 4094 ∧
      decode (at_ 4094 [0x60, 0x01]).drawOpcode
        [memByte (at_ 4094 [0x60, 0x01]) 4094, memByte (at_ 4094 [0x60, 0x01]) 4095] = .ok (.ldImm 0 1, []) ∧
      decode (at_ 4094 [0xFF, 0xFF]).drawOpcode
        [memByte (at_ 4094 [0xFF, 0xFF]) 4094, memByte (at_ 4094 [0xFF, 0xFF]) 4095] = .error (.unimplemented 0xFFFF) := by
  decide

theorem witness_FaultedMachineNeverSteps : { State.reset with status := .faulted .stackOverflow }.status =
    .faulted .stackOverflow := by decide

theorem witness_RunningMachineAlwaysSteps : State.reset.status = .running := by decide

/-- For `StepTellsItsOutcome`, `NoStepChangesTheParameter`, `NoInstructionWritesMemory`, `EachFatalConditionHasItsCause`. -/
theorem witness_step_answers : ∃ t, step State.reset = .next t := ⟨_, rfl⟩

theorem witness_PcAfterEachInstruction : ∃ t, step (at_ 4094 [0x30, 0x00]) = .next t ∧ t.status = .running ∧
    fetch (at_ 4094 [0x30, 0x00]) = some 0x3000 ∧ decodeOpcode false 0x3000 = .ok (.seImm 0 0) :=
  ⟨_, rfl, rfl, rfl, rfl⟩

theorem witness_FatalStepIsPrecise :
    (∃ t, step (at_ 4095 []) = .next t ∧ t.status = .faulted .memoryOutOfRange) ∧
      (∃ t, step (at_ 4094 [0xFF, 0xFF]) = .next t ∧ t.status = .faulted .unimplementedOpcode) :=
  ⟨⟨_, rfl, rfl⟩, ⟨_, rfl, rfl⟩⟩

/-- A cause for each of the four conditions, the two of `MemoryOutOfRange` at the boundary of their ranges. -/
theorem witness_EachFatalConditionHasItsCause :
    (∃ t, step (at_ 4095 []) = .next t ∧ t.status = .faulted .memoryOutOfRange) ∧
      (∃ t, step { at_ 0 [0xD0, 0x02] with drawOpcode := true, I := 0xFFF } = .next t ∧
        t.status = .faulted .memoryOutOfRange) ∧
      (∃ t, step (at_ 0 [0xE0, 0x00]) = .next t ∧ t.status = .faulted .unimplementedOpcode) ∧
      (∃ t, step { at_ 0 [0x20, 0x00] with sp := 16 } = .next t ∧ t.status = .faulted .stackOverflow) ∧
      (∃ t, step (at_ 0 [0x00, 0xEE]) = .next t ∧ t.status = .faulted .stackUnderflow) :=
  ⟨⟨_, rfl, rfl⟩, ⟨_, rfl, rfl⟩, ⟨_, rfl, rfl⟩, ⟨_, rfl, rfl⟩, ⟨_, rfl, rfl⟩⟩

/-- For the statements about every instruction that answers a next state: `NoInstructionWritesMemory`,
`OnlyCallAndRetMoveTheStack`, `OnlyRndConsumesRandomBytes`, `OnlyDrawChangesTheGrid`. -/
theorem witness_exec_answers : (∃ t, exec .ret (depth 1 0) = .next t) ∧ (∃ t, exec (.call 0) (depth 15 0) = .next t) ∧
    (∃ t, exec (.rnd 15 0xFF) State.reset = .next t) ∧ (∃ t, exec (.drw 0 0 1) State.reset = .next t) :=
  ⟨⟨_, rfl⟩, ⟨_, rfl⟩, ⟨_, rfl⟩, ⟨_, rfl⟩⟩

theorem witness_NoInstructionWritesMemory : ∃ t, hostSeedStack [1, 2] State.reset = some t := ⟨_, rfl⟩

theorem witness_OnlyDestinationAndFlagChange :
    (∃ t, exec (.ldImm 3 1) State.reset = .next t ∧ readV t 3 ≠ readV State.reset 3) ∧
      (∃ t, exec (.shr 3 0) (regs 0 1 3 0) = .next t ∧ readV t 15 ≠ readV (regs 0 1 3 0) 15) :=
  ⟨⟨_, rfl, by decide⟩, ⟨_, rfl, by decide⟩⟩

theorem witness_FlagWriteIsZeroOrOne : ∃ t, State.reset.status = .running ∧ exec (.drw 0 0 0) State.reset = .next t ∧
    t.status = .running ∧ writesFlag (.drw 0 0 0) = true := ⟨_, rfl, rfl, rfl, rfl⟩

theorem witness_OnlyLdIWritesIndex : ∃ t, exec (.ldI 0xFFF) State.reset = .next t ∧ t.I ≠ State.reset.I :=
  ⟨_, rfl, by decide⟩

theorem witness_BaselineNeverReachesDisplay : State.reset.drawOpcode = false := by decide

/-- `sp` at both ends of the range of each clause. -/
theorem witness_ReturnPopsOrUnderflows : (depth 1 0).sp.val = (0 : Fin 16).val + 1 ∧
    (depth 16 0).sp.val = (15 : Fin 16).val + 1 ∧ (depth 0 0).sp.val = 0 := by decide

theorem witness_CallPushesOrOverflows : (depth 0 0).sp.val = (0 : Fin 16).val ∧ (depth 15 0).sp.val = (15 : Fin 16).val ∧
    (depth 16 0).sp.val = 16 := by decide

theorem witness_ReturnUndoesCall : (depth 15 0).sp.val < 16 := by decide

theorem witness_StackFaultsExactly : (depth 16 0).status = .running ∧
    (∃ t, exec (.call 0) (depth 16 0) = .next t ∧ t.status = .faulted .stackOverflow) ∧
    (∃ t, exec .ret (depth 0 0) = .next t ∧ t.status = .faulted .stackUnderflow) := ⟨rfl, ⟨_, rfl, rfl⟩, ⟨_, rfl, rfl⟩⟩

theorem witness_SkipsTestEquality : readV (regs 1 7 2 7) 1 = 7 ∧ readV (regs 1 7 2 7) 1 ≠ 8 ∧
    readV (regs 1 7 2 7) 1 = readV (regs 1 7 2 7) 2 ∧ readV (regs 1 7 2 8) 1 ≠ readV (regs 1 7 2 8) 2 := by decide

/-- For the five flag instructions: a destination other than `VF`; the form `x = 15` is their clause without it. -/
theorem witness_flag_instructions : (14 : RegIdx) ≠ 15 := by decide

/-- Slices at the boundary: `n = 0` beyond memory, the last slice inside memory, the first outside. -/
theorem witness_DrawInstructionDrawsOrFaults :
    ((0 : Nibble) = 0 ∧ 4095 < (drawing 0xFFFF 0 0 []).I.toNat) ∧
      (drawing 0xFF1 0 0 []).I.toNat + (15 : Nibble).toNat - 1 ≤ 4095 ∧
      ((15 : Nibble) ≠ 0 ∧ 4095 < (drawing 0xFF2 0 0 []).I.toNat + (15 : Nibble).toNat - 1) := by decide

theorem witness_covers : spriteCovers 63 31 [0x80, 0x40] 31 63 :=
  ⟨0, 0, by decide, ⟨0x80, by decide, by decide⟩, by decide, by decide⟩

theorem witness_not_covers : ¬ spriteCovers 63 31 [] 31 63 := by
  rintro ⟨j, i, -, ⟨b, hb, -⟩, -⟩
  simp at hb

/-- 32 rows, the most the parallel form and the second clause of the XOR law admit. -/
theorem witness_DrawEqualsParallelForm : (List.replicate 32 (0xFF : Byte)).length ≤ 32 := by decide

theorem witness_SecondDrawAlwaysCollides : ([0x80] : List Byte).length ≤ 32 ∧ ∃ b ∈ ([0x80] : List Byte), b ≠ 0 :=
  ⟨by decide, 0x80, by decide, by decide⟩

theorem witness_OnlyDrawChangesTheGrid : (∃ t, hostSeedStack [] State.reset = some t) ∧
    (∃ t, hostWriteMem 0 1 State.reset = some t) ∧ ∃ t, loadImage 0 [1] State.reset = some t := ⟨⟨_, rfl⟩, ⟨_, rfl⟩, ⟨_, rfl⟩⟩

theorem witness_HostWriteSetsOneByte : Mem.wf State.reset.mem = true ∧ 4095 ≤ 4095 ∧ 4095 < 4096 := by decide

theorem witness_LoaderPlacesImage : Mem.wf (at_ 4094 [1, 2]).mem = true ∧
    4094 + ([3, 4] : List Byte).length ≤ 4096 ∧ 0 + 1 < ([3, 4] : List Byte).length := by decide

theorem witness_StackSeedIsBounded : (List.replicate 16 (1 : Word16)).length ≤ 16 ∧
    16 < (List.replicate 17 (1 : Word16)).length := by decide

theorem witness_RunEndsAtHaltOrFault : (∃ t, run 1 State.reset = .halted t) ∧
    (∃ t, run 1 (at_ 4095 []) = .faulted .memoryOutOfRange t) ∧
    (∃ t, run 1 { State.reset with status := .faulted .stackOverflow } = .notEnabled t) :=
  ⟨⟨_, rfl⟩, ⟨_, rfl⟩, ⟨_, rfl⟩⟩

end Sys2Proof.Tests
end

/-! # Main memory is never written by the machine (20_memory.md R66)

The three instructions whose handlers branch get one inversion lemma each; every other handler answers a named update of
the state, which keeps the field `mem`. -/

namespace Sys2Proof.Machine

/-! ## What the branching handlers can do -/

/-- Everything `RET` can do: the fault of an empty stack, or a jump to the popped address. -/
theorem execRet_cases {s t : State} (h : execRet s = .next t) :
    (s.sp.val = 0 ∧ t = faultedWith .stackUnderflow s) ∨
      ∃ target s', pop s = some (target, s') ∧ t = setPc s' target := by
  unfold execRet at h
  split at h
  next hp => exact .inl ⟨pop_none.1 hp, (Host.Outcome.next.inj h).symm⟩
  next target s' hp => exact .inr ⟨target, s', hp, (Host.Outcome.next.inj h).symm⟩

/-- Everything `CALL` can do: the fault of a full stack, or a jump after the push of `pc`. -/
theorem execCall_cases {nnn : Addr12} {s t : State} (h : execCall nnn s = .next t) :
    (s.sp.val = 16 ∧ t = faultedWith .stackOverflow s) ∨
      ∃ s', push s s.pc = some s' ∧ t = setPc s' (absAddr nnn) := by
  unfold execCall at h
  split at h
  next hp => exact .inl ⟨push_none.1 hp, (Host.Outcome.next.inj h).symm⟩
  next s' hp => exact .inr ⟨s', hp, (Host.Outcome.next.inj h).symm⟩

/-- Everything `DRW` can do: the fault of a slice outside memory, or a draw of the slice followed by the flag. -/
theorem execDrw_cases {x y : RegIdx} {n : Nibble} {s t : State} (h : execDrw x y n s = .next t) :
    (memSlice s s.I.toNat n.toNat = none ∧ t = faultedWith (.memoryOutOfRange (s.I.toNat + n.toNat - 1)) s) ∨
      ∃ bytes, memSlice s s.I.toNat n.toNat = some bytes ∧
        t = writeV (draw (readV s x).toNat (readV s y).toNat bytes s).2 vf
          (collisionFlag (draw (readV s x).toNat (readV s y).toNat bytes s).1) := by
  unfold execDrw at h
  split at h
  next hm => exact .inl ⟨hm, (Host.Outcome.next.inj h).symm⟩
  next bytes hm => exact .inr ⟨bytes, hm, (Host.Outcome.next.inj h).symm⟩

/-- An admitted stack seed has at most 16 entries and writes only the slots and `sp`. -/
theorem hostSeedStack_some {values : List Word16} {s t : State} (h : hostSeedStack values s = some t) :
    ∃ hlen : values.length ≤ 16,
      t = { s with stack := fillStack 0 values s.stack, sp := ⟨values.length, Nat.lt_succ_of_le hlen⟩ } := by
  unfold hostSeedStack at h
  split at h
  next hlen => exact ⟨hlen, (Option.some.inj h).symm⟩
  next => cases h

/-! ## The field `mem` -/

theorem sameMemory_of_mem_eq {s t : State} (h : t.mem = s.mem) : SameMemory s t :=
  fun addr => congrArg (Mem.read · addr) h

@[simp] theorem skipIf_mem (cond : Bool) (s : State) : (skipIf cond s).mem = s.mem := by
  cases cond <;> rfl

@[simp] theorem draw_mem (x0 y0 : Nat) (bytes : List Byte) (s : State) : (draw x0 y0 bytes s).2.mem = s.mem := rfl

theorem push_mem {s t : State} {v : Word16} (h : push s v = some t) : t.mem = s.mem := by
  obtain ⟨_, rfl⟩ := push_some h
  rfl

theorem pop_mem {s t : State} {v : Word16} (h : pop s = some (v, t)) : t.mem = s.mem := by
  obtain ⟨_, _, rfl⟩ := pop_some h
  rfl

theorem hostSeedStack_mem {values : List Word16} {s t : State} (h : hostSeedStack values s = some t) :
    t.mem = s.mem := by
  obtain ⟨_, rfl⟩ := hostSeedStack_some h
  rfl

theorem execRet_mem {s t : State} (h : execRet s = .next t) : t.mem = s.mem := by
  obtain ⟨-, rfl⟩ | ⟨target, s', hp, rfl⟩ := execRet_cases h
  · rfl
  · exact (setPc_mem s' target).trans (pop_mem hp)

theorem execCall_mem {nnn : Addr12} {s t : State} (h : execCall nnn s = .next t) : t.mem = s.mem := by
  obtain ⟨-, rfl⟩ | ⟨s', hp, rfl⟩ := execCall_cases h
  · rfl
  · exact (setPc_mem s' _).trans (push_mem hp)

theorem execDrw_mem {x y : RegIdx} {n : Nibble} {s t : State} (h : execDrw x y n s = .next t) : t.mem = s.mem := by
  obtain ⟨-, rfl⟩ | ⟨bytes, -, rfl⟩ := execDrw_cases h
  · rfl
  · simp

/-- Outside the branching handlers and the skips, a handler's answer is an update of registers, `I`, `pc`, the random
counter or the outcome, so `mem` is the same term. -/
theorem exec_mem {i : Instr} {s t : State} (h : exec i s = .next t) : t.mem = s.mem := by
  cases i
  case ret => exact execRet_mem h
  case call nnn => exact execCall_mem h
  case drw x y n => exact execDrw_mem h
  case seImm | sneImm | seReg | sneReg => cases h; exact skipIf_mem _ s
  all_goals cases h; rfl

theorem step_mem {s t : State} (h : step s = .next t) : t.mem = s.mem := by
  obtain ⟨-, ⟨-, rfl⟩ | ⟨op, e, -, -, rfl⟩ | ⟨op, i, -, -, hx⟩⟩ := step_cases h
  · exact faultedWith_mem ..
  · exact faultedWith_mem ..
  · exact (exec_mem hx).trans (advance_mem s)

/-! ## The statement -/

/-- Settles O20: instructions by `exec_mem`, steps by `step_mem`, the host's transactions one by one. -/
theorem noInstructionWritesMemory : Obligations.NoInstructionWritesMemory := by
  refine ⟨fun _ _ _ h => sameMemory_of_mem_eq (exec_mem h), fun _ _ h => sameMemory_of_mem_eq (step_mem h),
    fun s => ⟨fun x b => ?_, fun v => ?_, fun v => ?_, fun _ _ h => ?_, fun x0 y0 bytes => ?_, ?_⟩⟩
  · exact sameMemory_of_mem_eq (writeV_mem s x b)
  · exact sameMemory_of_mem_eq (setI_mem s v)
  · exact sameMemory_of_mem_eq (setPc_mem s v)
  · exact sameMemory_of_mem_eq (hostSeedStack_mem h)
  · exact sameMemory_of_mem_eq (draw_mem x0 y0 bytes s)
  · exact sameMemory_of_mem_eq (clearDirty_mem s)

end Sys2Proof.Machine

/-! # The decoder follows the opcode map (30_encoding.md R100)

From the decoder to the map: a decoded opcode is its instruction's encoding, and an encoding lies in its instruction's
row. From the map to the decoder: where a mask keeps a field in full, an opcode of the row has the field of the row's
pattern, and the group and `d` are the fields the decoder tests. -/

namespace Sys2Proof

variable {d : Bool} {op : Word16} {i : Instr} {pattern mask : Word16} {row : OpcodeRow}

/-! ## A decoded opcode is its instruction's encoding -/

theorem formatA_of_group {g : Nibble} (hg : fieldGroup op = g) : formatA g (fieldNnn op) = op :=
  hg ▸ formatA_fields op

theorem formatI_of_group {g : Nibble} (hg : fieldGroup op = g) : formatI g (fieldX op) (fieldNn op) = op :=
  hg ▸ formatI_fields op

theorem formatR_of_group {g : Nibble} (hg : fieldGroup op = g) : formatR g (fieldX op) (fieldY op) (fieldD op) = op :=
  hg ▸ formatR_fields op

theorem formatR_of_group_d {g k : Nibble} (hg : fieldGroup op = g) (hk : fieldD op = k) :
    formatR g (fieldX op) (fieldY op) k = op :=
  hk ▸ formatR_of_group hg

/-- Everything an `if` that guards one decoded instruction can answer. -/
theorem guarded_ok {ε α : Type} {c : Prop} [Decidable c] {a b : α} {e : ε}
    (h : (if c then .ok a else .error e : Except ε α) = .ok b) : c ∧ a = b := by
  split at h
  next hc => exact ⟨hc, Except.ok.inj h⟩
  next => cases h

theorem encode_of_decodeGroup0 (h : decodeGroup0 op = .ok i) : encode i = op ∧ wellFormed d i = true := by
  unfold decodeGroup0 at h
  split at h
  next hop => cases h; exact ⟨hop.symm, rfl⟩
  next =>
    obtain ⟨hop, rfl⟩ := guarded_ok h
    exact ⟨hop.symm, rfl⟩

/-- Each branch of group 8 names `d`, the last digit of the opcode it encodes. -/
theorem encode_of_decodeGroup8 (hg : fieldGroup op = 0x8) (h : decodeGroup8 op = .ok i) :
    encode i = op ∧ wellFormed d i = true := by
  unfold decodeGroup8 at h
  iterate 8
    split at h
    · next hk => cases h; exact ⟨formatR_of_group_d hg hk, rfl⟩
  obtain ⟨hk, rfl⟩ := guarded_ok h
  exact ⟨formatR_of_group_d hg hk, rfl⟩

/-- No bit of a decoded opcode is lost, and its instruction exists in the configuration. -/
theorem encode_of_decodeOpcode (h : decodeOpcode d op = .ok i) : encode i = op ∧ wellFormed d i = true := by
  rcases nibble_cases (fieldGroup op) with (hg | hg | hg | hg | hg | hg | hg | hg) | hg | hg | hg | hg | hg | hg | hg | hg
  · exact encode_of_decodeGroup0 ((decodeOpcode_group0 hg).symm.trans h)
  · cases (decodeOpcode_group1 hg).symm.trans h; exact ⟨formatA_of_group hg, rfl⟩
  · cases (decodeOpcode_group2 hg).symm.trans h; exact ⟨formatA_of_group hg, rfl⟩
  · cases (decodeOpcode_group3 hg).symm.trans h; exact ⟨formatI_of_group hg, rfl⟩
  · cases (decodeOpcode_group4 hg).symm.trans h; exact ⟨formatI_of_group hg, rfl⟩
  · obtain ⟨hk, rfl⟩ := guarded_ok ((decodeOpcode_group5 hg).symm.trans h)
    exact ⟨formatR_of_group_d hg hk, rfl⟩
  · cases (decodeOpcode_group6 hg).symm.trans h; exact ⟨formatI_of_group hg, rfl⟩
  · cases (decodeOpcode_group7 hg).symm.trans h; exact ⟨formatI_of_group hg, rfl⟩
  · exact encode_of_decodeGroup8 hg ((decodeOpcode_group8 hg).symm.trans h)
  · obtain ⟨hk, rfl⟩ := guarded_ok ((decodeOpcode_group9 hg).symm.trans h)
    exact ⟨formatR_of_group_d hg hk, rfl⟩
  · cases (decodeOpcode_groupA hg).symm.trans h; exact ⟨formatA_of_group hg, rfl⟩
  · cases (decodeOpcode_groupB hg).symm.trans h; exact ⟨formatA_of_group hg, rfl⟩
  · cases (decodeOpcode_groupC hg).symm.trans h; exact ⟨formatI_of_group hg, rfl⟩
  · obtain ⟨hd, rfl⟩ := guarded_ok ((decodeOpcode_groupD hg).symm.trans h)
    exact ⟨formatR_of_group hg, hd⟩
  · cases (decodeOpcode_groupE hg).symm.trans h
  · cases (decodeOpcode_groupF hg).symm.trans h

/-! ## An encoding lies in its instruction's row -/

theorem rowStatement : ∀ i : Instr, Laws.Row.Statement i
  | .halt => Laws.Row.halt
  | .ret => Laws.Row.ret
  | .jp nnn => Laws.Row.jp nnn
  | .call nnn => Laws.Row.call nnn
  | .seImm x nn => Laws.Row.seImm x nn
  | .sneImm x nn => Laws.Row.sneImm x nn
  | .seReg x y => Laws.Row.seReg x y
  | .ldImm x nn => Laws.Row.ldImm x nn
  | .addImm x nn => Laws.Row.addImm x nn
  | .ldReg x y => Laws.Row.ldReg x y
  | .orReg x y => Laws.Row.orReg x y
  | .andReg x y => Laws.Row.andReg x y
  | .xorReg x y => Laws.Row.xorReg x y
  | .addReg x y => Laws.Row.addReg x y
  | .sub x y => Laws.Row.sub x y
  | .shr x y => Laws.Row.shr x y
  | .subn x y => Laws.Row.subn x y
  | .shl x y => Laws.Row.shl x y
  | .sneReg x y => Laws.Row.sneReg x y
  | .ldI nnn => Laws.Row.ldI nnn
  | .jpV0 nnn => Laws.Row.jpV0 nnn
  | .rnd x nn => Laws.Row.rnd x nn
  | .drw x y n => Laws.Row.drw x y n

theorem encode_selectsRow (i : Instr) : selectsRow (encode i) (rowOf i) := (rowStatement i).1

/-- The baseline's map is the full one without the row of `DRW` (00_scope.md R8). -/
theorem mem_opcodeTable_true : row ∈ opcodeTable true ↔ row ∈ opcodeTable false ∨ row = ⟨0xD000, 0xF000⟩ := by
  simp [opcodeTable, or_assoc]

theorem rowOf_mem_opcodeTable (h : wellFormed d i = true) : rowOf i ∈ opcodeTable d := by
  cases d
  case true => exact (rowStatement i).2
  case false =>
    refine (mem_opcodeTable_true.1 (rowStatement i).2).resolve_right fun hrow => ?_
    cases i
    case drw => cases h
    all_goals simp [rowOf] at hrow

theorem selectsRow_of_decodeOpcode (h : decodeOpcode d op = .ok i) :
    rowOf i ∈ opcodeTable d ∧ selectsRow op (rowOf i) := by
  obtain ⟨rfl, hwf⟩ := encode_of_decodeOpcode h
  exact ⟨rowOf_mem_opcodeTable hwf, encode_selectsRow i⟩

/-! ## An opcode of a row decodes to an instruction of that row -/

/-- A row whose mask is full in the group fixes the group. -/
theorem fieldGroup_of_selectsRow (hm : fieldGroup mask = 0xF) (h : selectsRow op ⟨pattern, mask⟩) :
    fieldGroup op = fieldGroup pattern :=
  calc fieldGroup op
    _ = fieldGroup op &&& 0xF := BitVec.and_allOnes.symm
    _ = fieldGroup op &&& fieldGroup mask := by rw [hm]
    _ = fieldGroup (op &&& mask) := BitVec.extractLsb'_and.symm
    _ = fieldGroup pattern := congrArg fieldGroup h

/-- A row whose mask is full in `d` fixes `d`. -/
theorem fieldD_of_selectsRow (hm : fieldD mask = 0xF) (h : selectsRow op ⟨pattern, mask⟩) :
    fieldD op = fieldD pattern :=
  calc fieldD op
    _ = fieldD op &&& 0xF := BitVec.and_allOnes.symm
    _ = fieldD op &&& fieldD mask := by rw [hm]
    _ = fieldD (op &&& mask) := BitVec.extractLsb'_and.symm
    _ = fieldD pattern := congrArg fieldD h

/-- A row whose mask is full holds one opcode. -/
theorem eq_of_selectsRow (h : selectsRow op ⟨pattern, 0xFFFF⟩) : op = pattern :=
  BitVec.and_allOnes.symm.trans h

/-- The last digits of the nine patterns of group 8 (30_encoding.md R102, 43_alu.md R190). -/
def group8Digits : List Nibble := [0x0, 0x1, 0x2, 0x3, 0x4, 0x5, 0x6, 0x7, 0xE]

/-- The row of R100 with the pattern `0x8xyk`. -/
def group8Row (k : Nibble) : OpcodeRow := ⟨formatR 0x8 0 0 k, 0xF00F⟩

theorem decodeGroup8_of_digit (h : fieldD op ∈ group8Digits) :
    ∃ i, decodeGroup8 op = .ok i ∧ rowOf i = group8Row (fieldD op) := by
  simp only [group8Digits, List.mem_cons, List.not_mem_nil, or_false] at h
  rcases h with h | h | h | h | h | h | h | h | h <;> rw [decodeGroup8, h] <;> exact ⟨_, rfl, rfl⟩

theorem fields_of_selects_group8Row {k : Nibble} (h : selectsRow op (group8Row k)) :
    fieldGroup op = 0x8 ∧ fieldD op = k :=
  ⟨(fieldGroup_of_selectsRow rfl h).trans (fieldGroup_formatR 0x8 0 0 k),
    (fieldD_of_selectsRow rfl h).trans (fieldD_formatR 0x8 0 0 k)⟩

theorem decodeOpcode_of_selects_group8Row (hrow : row ∈ group8Digits.map group8Row) (h : selectsRow op row) :
    ∃ i, decodeOpcode d op = .ok i ∧ rowOf i = row := by
  obtain ⟨k, hk, rfl⟩ := List.mem_map.1 hrow
  obtain ⟨hg, rfl⟩ := fields_of_selects_group8Row h
  rw [decodeOpcode_group8 hg]
  exact decodeGroup8_of_digit hk

/-- The map is taken apart as it is written: groups 0 to 7, group 8, groups 9 to C, and `DRW`. -/
theorem decodeOpcode_of_selectsRow (hrow : row ∈ opcodeTable d) (h : selectsRow op row) :
    ∃ i, decodeOpcode d op = .ok i ∧ rowOf i = row := by
  simp only [opcodeTable, List.mem_append] at hrow
  rcases hrow with ((hlow | hgroup8) | hhigh) | hdrw
  · simp only [List.mem_cons, List.not_mem_nil, or_false] at hlow
    rcases hlow with rfl | rfl | rfl | rfl | rfl | rfl | rfl | rfl | rfl
    · exact ⟨.halt, eq_of_selectsRow h ▸ decodeOpcode_group0 rfl, rfl⟩
    · exact ⟨.ret, eq_of_selectsRow h ▸ decodeOpcode_group0 rfl, rfl⟩
    · exact ⟨_, decodeOpcode_group1 (fieldGroup_of_selectsRow rfl h), rfl⟩
    · exact ⟨_, decodeOpcode_group2 (fieldGroup_of_selectsRow rfl h), rfl⟩
    · exact ⟨_, decodeOpcode_group3 (fieldGroup_of_selectsRow rfl h), rfl⟩
    · exact ⟨_, decodeOpcode_group4 (fieldGroup_of_selectsRow rfl h), rfl⟩
    · exact ⟨_, (decodeOpcode_group5 (fieldGroup_of_selectsRow rfl h)).trans (if_pos (fieldD_of_selectsRow rfl h)), rfl⟩
    · exact ⟨_, decodeOpcode_group6 (fieldGroup_of_selectsRow rfl h), rfl⟩
    · exact ⟨_, decodeOpcode_group7 (fieldGroup_of_selectsRow rfl h), rfl⟩
  · exact decodeOpcode_of_selects_group8Row hgroup8 h
  · simp only [List.mem_cons, List.not_mem_nil, or_false] at hhigh
    rcases hhigh with rfl | rfl | rfl | rfl
    · exact ⟨_, (decodeOpcode_group9 (fieldGroup_of_selectsRow rfl h)).trans (if_pos (fieldD_of_selectsRow rfl h)), rfl⟩
    · exact ⟨_, decodeOpcode_groupA (fieldGroup_of_selectsRow rfl h), rfl⟩
    · exact ⟨_, decodeOpcode_groupB (fieldGroup_of_selectsRow rfl h), rfl⟩
    · exact ⟨_, decodeOpcode_groupC (fieldGroup_of_selectsRow rfl h), rfl⟩
  · obtain ⟨hd, hrow⟩ := List.mem_ite_nil_right.1 hdrw
    obtain rfl := List.mem_singleton.1 hrow
    exact ⟨_, (decodeOpcode_groupD (fieldGroup_of_selectsRow rfl h)).trans (if_pos hd), rfl⟩

end Sys2Proof

namespace Sys2Proof.Machine

/-- Settles O7: `selectsRow_of_decodeOpcode` from the decoder to the map, `decodeOpcode_of_selectsRow` back. -/
theorem decoderFollowsOpcodeMap : Obligations.DecoderFollowsOpcodeMap :=
  fun _ _ => ⟨fun _ h => selectsRow_of_decodeOpcode h, fun _ hrow h => decodeOpcode_of_selectsRow hrow h⟩

end Sys2Proof.Machine

/-! # Jumps and calls (40_cycle_and_control.md R128 to R130) -/

namespace Sys2Proof.Machine

variable {s t : State} {v : Word16} (nnn : Addr12)

/-! ## What a push writes and what it leaves unchanged (10_state.md R31 to R33) -/

theorem push_sp (h : push s v = some t) : t.sp.val = s.sp.val + 1 := by
  obtain ⟨_, rfl⟩ := push_some h
  rfl

theorem push_stack_get_same (h : push s v = some t) {k : Fin 16} (hk : s.sp.val = k.val) : t.stack.get k = v := by
  obtain ⟨_, rfl⟩ := push_some h
  simp [Vector.get_eq_getElem, hk]

theorem push_stack_get_other (h : push s v = some t) {j : Fin 16} (hj : s.sp.val ≠ j.val) :
    t.stack.get j = s.stack.get j := by
  obtain ⟨_, rfl⟩ := push_some h
  simp [Vector.get_eq_getElem, hj]

/-- The frame of a push. -/
theorem push_frame (h : push s v = some t) :
    SameRegsExcept [] s t ∧ t.I = s.I ∧ SameMemory s t ∧ SameDisplay s t ∧ SameControl s t ∧
      t.rndIndex = s.rndIndex := by
  obtain ⟨_, rfl⟩ := push_some h
  exact ⟨fun _ _ => rfl, rfl, fun _ => rfl, ⟨rfl, rfl⟩, ⟨rfl, rfl, rfl⟩, rfl⟩

/-! ## What the three instructions answer -/

theorem exec_jp (s : State) : exec (.jp nnn) s = .next (setPc s (absAddr nnn)) := rfl

theorem exec_jpV0 (s : State) : exec (.jpV0 nnn) s = .next (setPc s (indexedAddr s nnn)) := rfl

theorem exec_call_of_push (h : push s s.pc = some t) : exec (.call nnn) s = .next (setPc t (absAddr nnn)) := by
  simp only [exec, execCall, h]

theorem exec_call_of_full (h : s.sp.val = 16) : exec (.call nnn) s = .next (faultedWith .stackOverflow s) := by
  simp only [exec, execCall, push_none.2 h, raise_eq]

/-! ## The statements -/

/-- Settles O30: the target is the zero-extended address (`absAddr_toNat`), and a jump writes only `pc`. -/
theorem jumpSetsPc : Obligations.JumpSetsPc :=
  fun s nnn => ⟨_, exec_jp nnn s, absAddr_toNat nnn, setPc_frame s _⟩

/-- Settles O31: below 16 entries the push succeeds and its laws give the slots and the frame, which the jump keeps; with
16 entries the push fails. -/
theorem callPushesOrOverflows : Obligations.CallPushesOrOverflows := by
  refine fun s nnn => ⟨fun k hk => ?_, exec_call_of_full nnn⟩
  obtain ⟨u, hpush⟩ : ∃ u, push s s.pc = some u := ⟨_, push_of_lt s.pc (hk.trans_lt k.isLt)⟩
  have hsp : u.sp.val = k.val + 1 := (push_sp hpush).trans (congrArg (· + 1) hk)
  have hother : ∀ j : Fin 16, j ≠ k → u.stack.get j = s.stack.get j := fun j hj =>
    push_stack_get_other hpush fun h => hj (Fin.ext (h.symm.trans hk))
  have hframe := push_frame hpush
  exact ⟨_, exec_call_of_push nnn hpush, absAddr_toNat nnn, hsp, push_stack_get_same hpush hk, hother, hframe⟩

/-- Settles O32: the 16-bit sum is exact (`indexedAddr_toNat`), and its bound is the sum of the operands' bounds
`0xFF` and `0xFFF`. -/
theorem indexedJumpAddsV0 : Obligations.IndexedJumpAddsV0 := by
  intro s nnn
  have hsum := indexedAddr_toNat s nnn
  have hV0 := (readV s 0).isLt
  have hnnn := nnn.isLt
  have hbound : (indexedAddr s nnn).toNat ≤ 0x10FE := by omega
  exact ⟨_, exec_jpV0 nnn s, hsum, hbound, setPc_frame s _⟩

end Sys2Proof.Machine

/-! # Skips (41_skips.md R150 to R154) -/

namespace Sys2Proof.Machine

variable (s : State) (x y : RegIdx) (nn : Byte)

/-! ## What the four instructions answer -/

theorem exec_seImm : exec (.seImm x nn) s = .next (skipIf (readV s x == nn) s) := rfl

theorem exec_sneImm : exec (.sneImm x nn) s = .next (skipIf (readV s x != nn) s) := rfl

theorem exec_seReg : exec (.seReg x y) s = .next (skipIf (readV s x == readV s y) s) := rfl

theorem exec_sneReg : exec (.sneReg x y) s = .next (skipIf (readV s x != readV s y) s) := rfl

/-! ## The skip -/

variable {s} {cond : Bool}

theorem skipIf_pc_taken (h : cond = true) : (skipIf cond s).pc = s.pc + 2 :=
  (skipIf_spec cond s).1.trans (if_pos h)

theorem skipIf_pc_not_taken (h : cond = false) : (skipIf cond s).pc = s.pc :=
  (skipIf_spec cond s).1.trans (if_neg (Bool.eq_false_iff.1 h))

/-- What an instruction that answers a skip on `cond` does when `P` says that `cond` holds and `Q` that it fails. -/
theorem exec_skip {i : Instr} {P Q : Prop} (hexec : exec i s = .next (skipIf cond s))
    (htaken : P → cond = true) (hnot : Q → cond = false) :
    ∃ t, exec i s = .next t ∧ OnlyPcChanges s t ∧ (P → t.pc = s.pc + 2) ∧ (Q → t.pc = s.pc) :=
  ⟨_, hexec, (skipIf_spec cond s).2, fun h => skipIf_pc_taken (htaken h), fun h => skipIf_pc_not_taken (hnot h)⟩

/-! ## The statement -/

/-- Settles O35: all four are `exec_skip`, on `==` for SE and on `!=` for SNE. -/
theorem skipsTestEquality : Obligations.SkipsTestEquality := by
  refine fun s x y nn => ⟨?seImm, ?sneImm, ?seReg, ?sneReg⟩
  case seImm => exact exec_skip (exec_seImm s x nn) beq_iff_eq.2 beq_eq_false_iff_ne.2
  case sneImm => exact exec_skip (exec_sneImm s x nn) bne_iff_ne.2 bne_eq_false_iff_eq.2
  case seReg => exact exec_skip (exec_seReg s x y) beq_iff_eq.2 beq_eq_false_iff_ne.2
  case sneReg => exact exec_skip (exec_sneReg s x y) bne_iff_ne.2 bne_eq_false_iff_eq.2

end Sys2Proof.Machine

/-! # Immediate load, immediate add and index load (42_immediate_and_index.md R170 to R172) -/

namespace Sys2Proof.Machine

variable (s : State) (x : RegIdx) (nn : Byte) (nnn : Addr12)

/-! ## What the three instructions answer -/

theorem exec_ldImm : exec (.ldImm x nn) s = .next (writeV s x nn) := rfl

theorem exec_addImm : exec (.addImm x nn) s = .next (writeV s x (readV s x + nn)) := rfl

theorem exec_ldI : exec (.ldI nnn) s = .next (setI s (absAddr nnn)) := rfl

/-! ## What an index write leaves unchanged -/

/-- The frame of a write of `I` (10_state.md R25). -/
theorem setI_frame (v : Word16) :
    (setI s v).pc = s.pc ∧ SameRegsExcept [] s (setI s v) ∧ SameStack s (setI s v) ∧ SameMemory s (setI s v) ∧
      SameDisplay s (setI s v) ∧ SameControl s (setI s v) ∧ (setI s v).rndIndex = s.rndIndex :=
  ⟨setI_pc s v, fun r _ => readV_setI s v r, ⟨rfl, rfl⟩, sameMemory_of_mem_eq (setI_mem s v), ⟨rfl, rfl⟩,
    ⟨rfl, rfl, rfl⟩, rfl⟩

/-! ## The statements -/

/-- Settles O36: the instruction is one register write, whose read-back and frame are laws of `writeV`. -/
theorem loadImmediateSetsRegister : Obligations.LoadImmediateSetsRegister :=
  fun s x nn => ⟨_, exec_ldImm s x nn, readV_writeV_same s x nn, writeV_frame s x nn⟩

/-- Settles O37: what is read back is the 8-bit sum, which wraps at 256; the frame is that of the one register written,
so `V[15]` changes only as the destination. -/
theorem addImmediateWrapsWithoutFlag : Obligations.AddImmediateWrapsWithoutFlag := by
  intro s x nn
  have hsum : (readV (writeV s x (readV s x + nn)) x).toNat = ((readV s x).toNat + nn.toNat) % 256 := by
    rw [readV_writeV_same, BitVec.toNat_add]
  exact ⟨_, exec_addImm s x nn, hsum, writeV_frame s x _⟩

/-- Settles O38: `I` receives the zero-extended address (`absAddr_toNat`), and an index write changes nothing else. -/
theorem loadIndexZeroExtends : Obligations.LoadIndexZeroExtends :=
  fun s nnn => ⟨_, exec_ldI s nnn, absAddr_toNat nnn, setI_frame s _⟩

end Sys2Proof.Machine

/-! # Register move and bitwise operations (43_alu.md R192 to R195) -/

namespace Sys2Proof.Machine

variable (s : State) (x y : RegIdx)

/-! ## What the four instructions answer -/

theorem exec_ldReg : exec (.ldReg x y) s = .next (writeV s x (readV s y)) := rfl

theorem exec_orReg : exec (.orReg x y) s = .next (writeV s x (readV s x ||| readV s y)) := rfl

theorem exec_andReg : exec (.andReg x y) s = .next (writeV s x (readV s x &&& readV s y)) := rfl

theorem exec_xorReg : exec (.xorReg x y) s = .next (writeV s x (readV s x ^^^ readV s y)) := rfl

/-! ## One register write, told bit by bit -/

variable {s x} in
/-- What an instruction that only writes `b` to `V[x]` does, when `bit` gives each bit of `b`. -/
theorem exec_writeV_bits {i : Instr} {b : Byte} {bit : Nat → Bool} (hexec : exec i s = .next (writeV s x b))
    (hbit : ∀ k, b.getLsbD k = bit k) :
    ∃ t, exec i s = .next t ∧ OnlyRegsChange [x] s t ∧ ∀ k, (readV t x).getLsbD k = bit k := by
  refine ⟨_, hexec, writeV_frame s x b, fun k => ?_⟩
  rw [readV_writeV_same, hbit k]

/-! ## The statement -/

/-- Settles O39: each instruction is one register write, which changes `V[x]` alone (`writeV_frame`), and the byte written
is computed from the registers before the write, so `x = y` is no special case. -/
theorem moveAndBitwiseWriteNoFlag : Obligations.MoveAndBitwiseWriteNoFlag := by
  refine fun s x y => ⟨?ld, ?or, ?and, ?xor⟩
  case ld => exact ⟨_, exec_ldReg s x y, readV_writeV_same s x _, writeV_frame s x _⟩
  case or => exact exec_writeV_bits (exec_orReg s x y) fun _ => BitVec.getLsbD_or
  case and => exact exec_writeV_bits (exec_andReg s x y) fun _ => BitVec.getLsbD_and
  case xor => exact exec_writeV_bits (exec_xorReg s x y) fun _ => BitVec.getLsbD_xor

end Sys2Proof.Machine

/-! # The masked random byte (44_random.md R220) -/

namespace Sys2Proof.Machine

variable (s : State) (x : RegIdx) (nn : Byte)

/-! ## What the instruction answers -/

theorem exec_rnd : exec (.rnd x nn) s = .next (writeV (consumeRnd s) x (rndByte s &&& nn)) := rfl

/-! ## What it leaves unchanged, and the mask -/

/-- The frame of RND: that of its register write, since consuming a random byte moves only the position in the stream. -/
theorem writeV_consumeRnd_frame (b : Byte) :
    SameRegsExcept [x] s (writeV (consumeRnd s) x b) ∧ (writeV (consumeRnd s) x b).I = s.I ∧
      (writeV (consumeRnd s) x b).pc = s.pc ∧ SameStack s (writeV (consumeRnd s) x b) ∧
      SameMemory s (writeV (consumeRnd s) x b) ∧ SameDisplay s (writeV (consumeRnd s) x b) ∧
      SameControl s (writeV (consumeRnd s) x b) := by
  obtain ⟨hregs, hI, hpc, hstack, hmem, hdisplay, hcontrol, -⟩ := writeV_frame (consumeRnd s) x b
  exact ⟨hregs, hI, hpc, hstack, hmem, hdisplay, hcontrol⟩

/-- A masked byte has no bit outside its mask. -/
theorem masked_and_not_mask (b : Byte) : b &&& nn &&& ~~~nn = 0 := by
  rw [BitVec.and_assoc, BitVec.and_not_self]
  exact BitVec.and_zero

/-! ## The statement -/

/-- Settles O45: what is read back is the masked byte, whatever the random source answers; the rest is the frame of the
write (`writeV_consumeRnd_frame`). -/
theorem randomIsMasked : Obligations.RandomIsMasked := by
  intro s x nn
  have hread : readV (writeV (consumeRnd s) x (rndByte s &&& nn)) x = rndByte s &&& nn := readV_writeV_same _ x _
  have hmask : readV (writeV (consumeRnd s) x (rndByte s &&& nn)) x &&& ~~~nn = 0 :=
    (congrArg (· &&& ~~~nn) hread).trans (masked_and_not_mask nn _)
  exact ⟨_, exec_rnd s x nn, hread, hmask, writeV_consumeRnd_frame s x _⟩

end Sys2Proof.Machine

/-! # The Display (45_display.md R236 to R240, R252)

No instruction but `DRW` reads or writes the Display: it commutes with `withDisplay`. That only a draw changes the grid,
that nothing reads `dirty` and that a baseline step is independent of the Display follow from this one fact and from
what `DRW` does. -/

namespace Sys2Proof.Machine

variable (s : State) (g : Grid) (f : Bool)

/-! ## The state's operations under another Display -/

theorem skipIf_withDisplay (cond : Bool) : skipIf cond (withDisplay g f s) = withDisplay g f (skipIf cond s) := by
  cases cond <;> rfl

theorem push_withDisplay (v : Word16) : push (withDisplay g f s) v = (push s v).map (withDisplay g f) := by
  unfold push
  rw [Option.map_dif]
  rfl

theorem pop_withDisplay : pop (withDisplay g f s) = (pop s).map (Prod.map id (withDisplay g f)) := by
  unfold pop
  rw [Option.map_dif]
  rfl

theorem execRet_withDisplay : execRet (withDisplay g f s) = mapNext (withDisplay g f) (execRet s) := by
  rw [execRet, execRet, pop_withDisplay]
  cases pop s <;> rfl

theorem execCall_withDisplay (nnn : Addr12) :
    execCall nnn (withDisplay g f s) = mapNext (withDisplay g f) (execCall nnn s) := by
  rw [execCall, execCall, withDisplay_pc, push_withDisplay]
  cases push s s.pc <;> rfl

variable {s g f} {t : State} {i : Instr}

theorem eq_drw_or_ne (i : Instr) : (∃ x y n, i = .drw x y n) ∨ ∀ x y n, i ≠ .drw x y n :=
  or_iff_not_imp_left.2 fun h x y n hi => h ⟨x, y, n, hi⟩

/-- No instruction but `DRW` reads or writes the Display. -/
theorem exec_withDisplay (hi : ∀ x y n, i ≠ .drw x y n) :
    exec i (withDisplay g f s) = mapNext (withDisplay g f) (exec i s) := by
  cases i
  case drw x y n => exact absurd rfl (hi x y n)
  case ret => exact execRet_withDisplay s g f
  case call nnn => exact execCall_withDisplay s g f nnn
  case seImm | sneImm | seReg | sneReg => exact congrArg Host.Outcome.next (skipIf_withDisplay s g f _)
  all_goals rfl


/-! ## The grid -/

/-- An instruction but `DRW` keeps the Display: run under the Display it already has, it answers that Display. -/
theorem exec_sameDisplay (hi : ∀ x y n, i ≠ .drw x y n) (h : exec i s = .next t) : SameDisplay s t := by
  have hself : exec i s = mapNext (withDisplay s.pixel s.dirty) (exec i s) := exec_withDisplay hi
  rw [h] at hself
  have ht : t = withDisplay s.pixel s.dirty t := Host.Outcome.next.inj hself
  rw [ht]
  exact ⟨withDisplay_pixel .., withDisplay_dirty ..⟩

theorem draw_pixel (x0 y0 : Nat) (bytes : List Byte) (s : State) :
    (draw x0 y0 bytes s).2.pixel = (drawSprite x0 y0 bytes s.pixel).1 := rfl

/-- `DRW` keeps the grid when it faults and draws otherwise; the flag it then writes is no cell. -/
theorem execDrw_pixel {x y : RegIdx} {n : Nibble} (h : execDrw x y n s = .next t) : t.pixel = s.pixel ∨
    ∃ bytes, t.pixel = (drawSprite (readV s x).toNat (readV s y).toNat bytes s.pixel).1 := by
  obtain ⟨-, rfl⟩ | ⟨bytes, -, rfl⟩ := execDrw_cases h
  · exact .inl (faultedWith_pixel s _)
  · exact .inr ⟨bytes, (writeV_pixel _ vf _).trans (draw_pixel _ _ bytes s)⟩

/-- What an instruction can do to the grid. -/
theorem exec_pixel (h : exec i s = .next t) : t.pixel = s.pixel ∨
    ∃ x y n bytes, i = .drw x y n ∧
      t.pixel = (drawSprite (readV s x).toNat (readV s y).toNat bytes s.pixel).1 := by
  obtain ⟨x, y, n, rfl⟩ | hi := eq_drw_or_ne i
  · exact (execDrw_pixel h).imp_right fun ⟨bytes, hb⟩ => ⟨x, y, n, bytes, rfl, hb⟩
  · exact .inl (exec_sameDisplay hi h).1

/-- An admitted host write changes only memory. -/
theorem hostWriteMem_some {addr : Nat} {b : Byte} (h : hostWriteMem addr b s = some t) :
    addr < memSize ∧ t = { s with mem := Mem.write s.mem addr b } :=
  (Option.ite_none_right_eq_some.1 h).imp_right fun ht => (Option.some.inj ht).symm

/-- An admitted load changes only memory. -/
theorem loadImage_some {base : Nat} {image : List Byte} (h : loadImage base image s = some t) :
    base + image.length ≤ memSize ∧ t = { s with mem := writeBytes base image s.mem } :=
  (Option.ite_none_right_eq_some.1 h).imp_right fun ht => (Option.some.inj ht).symm

theorem hostWriteMem_pixel {addr : Nat} {b : Byte} (h : hostWriteMem addr b s = some t) : t.pixel = s.pixel := by
  obtain ⟨-, rfl⟩ := hostWriteMem_some h
  rfl

theorem loadImage_pixel {base : Nat} {image : List Byte} (h : loadImage base image s = some t) :
    t.pixel = s.pixel := by
  obtain ⟨-, rfl⟩ := loadImage_some h
  rfl

theorem hostSeedStack_pixel {values : List Word16} (h : hostSeedStack values s = some t) : t.pixel = s.pixel := by
  obtain ⟨-, rfl⟩ := hostSeedStack_some h
  rfl

/-! ## `dirty` -/

theorem clearDirty_withDisplay_of_pixel (h : t.pixel = g) : clearDirty (withDisplay g f t) = clearDirty t :=
  h ▸ rfl

/-- `DRW` overwrites `dirty` when it draws; a fault and the slice it depends on know nothing of it. -/
theorem execDrw_forgets_dirty (x y : RegIdx) (n : Nibble) :
    mapNext clearDirty (execDrw x y n (withDisplay s.pixel f s)) = mapNext clearDirty (execDrw x y n s) := by
  have hslice : memSlice (withDisplay s.pixel f s) s.I.toNat n.toNat = memSlice s s.I.toNat n.toNat := rfl
  rw [execDrw, execDrw, withDisplay_I, hslice]
  cases memSlice s s.I.toNat n.toNat <;> rfl

/-- But for `dirty` itself, no instruction's next state depends on `dirty`. -/
theorem exec_forgets_dirty (i : Instr) (s : State) (f : Bool) :
    mapNext clearDirty (exec i (withDisplay s.pixel f s)) = mapNext clearDirty (exec i s) := by
  obtain ⟨x, y, n, rfl⟩ | hi := eq_drw_or_ne i
  · exact execDrw_forgets_dirty x y n
  · rw [exec_withDisplay hi]
    cases h : exec i s
    case next t => exact congrArg Host.Outcome.next (clearDirty_withDisplay_of_pixel (exec_sameDisplay hi h).1)
    all_goals rfl

/-! ## A step of the baseline -/

theorem step_of_faulted {kind : FatalKind} (hs : s.status = .faulted kind) :
    step s = .fault (.stepNotEnabled kind) := by
  rw [step, hs]

theorem step_of_fetch_none (hs : s.status = .running) (hf : fetch s = none) : step s = fetchFault s := by
  simp only [step, hs, hf]

theorem step_of_decode_error {op : Word16} {e : DecodeError} (hs : s.status = .running) (hf : fetch s = some op)
    (hd : decodeOpcode s.drawOpcode op = .error e) : step s = dispatchFault op (advance s) := by
  simp only [step, hs, hf, hd]

theorem fetch_withDisplay : fetch (withDisplay g f s) = fetch s := rfl

/-- The baseline has no `DRW` (30_encoding.md R102). -/
theorem ne_drw_of_decodeOpcode_false {op : Word16} (h : decodeOpcode false op = .ok i) (x y : RegIdx) (n : Nibble) :
    i ≠ .drw x y n := by
  rintro rfl
  have hwf : wellFormed false (.drw x y n) = true := (encode_of_decodeOpcode h).2
  exact absurd hwf Bool.false_ne_true

/-- Fetch and decode do not see the Display, a fatal condition keeps it, and what the baseline decodes is no `DRW`. -/
theorem step_withDisplay (hbase : s.drawOpcode = false) :
    step (withDisplay g f s) = mapNext (withDisplay g f) (step s) := by
  cases hs : s.status with
  | faulted kind =>
    rw [step_of_faulted hs, step_of_faulted (s := withDisplay g f s) hs]
    rfl
  | running =>
    cases hf : fetch s with
    | none =>
      rw [step_of_fetch_none hs hf, step_of_fetch_none (s := withDisplay g f s) hs hf]
      rfl
    | some op =>
      cases hd : decodeOpcode s.drawOpcode op with
      | error e =>
        rw [step_of_decode_error hs hf hd, step_of_decode_error (s := withDisplay g f s) hs hf hd]
        rfl
      | ok i =>
        rw [step_of_decode hs hf hd, step_of_decode (s := withDisplay g f s) hs hf hd]
        exact exec_withDisplay (s := advance s) (ne_drw_of_decodeOpcode_false (hbase ▸ hd))

/-! ## The render buffer -/

/-- The colour a cell is shown in (45_display.md R240). -/
def cellColor (fg bg : BitVec 24) (b : Bool) : BitVec 32 := packColor (if b then fg else bg)

theorem packColor_toNat (rgb : BitVec 24) : (packColor rgb).toNat = rgb.toNat :=
  BitVec.toNat_setWidth_of_le (by decide)

theorem cellColor_toNat (fg bg : BitVec 24) (b : Bool) :
    (cellColor fg bg b).toNat = if b then fg.toNat else bg.toNat := by
  rw [cellColor, packColor_toNat, apply_ite BitVec.toNat]

/-- The render buffer as a vector, whose length 32 * 64 its type carries. -/
theorem toRenderBuffer_eq (fg bg : BitVec 24) (g : Grid) :
    toRenderBuffer fg bg g = (g.flatMap fun row => row.map (cellColor fg bg)).toList := by
  rw [Vector.toList, ← Vector.flatMap_toArray, Array.toList_flatMap]
  exact congrArg (List.flatMap · g.toList) (funext fun row => Vector.toList_map.symm)

theorem toRenderBuffer_length (fg bg : BitVec 24) (g : Grid) : (toRenderBuffer fg bg g).length = 2048 := by
  rw [toRenderBuffer_eq, Vector.length_toList]

/-- The entry's index determines the cell: the quotient by 64 is its row and the remainder its column. -/
theorem toRenderBuffer_getElem? (fg bg : BitVec 24) (g : Grid) (r : Fin 32) (c : Fin 64) :
    (toRenderBuffer fg bg g)[r.val * 64 + c.val]? = some (cellColor fg bg (g.cell r c)) := by
  have hlt : r.val * 64 + c.val < 32 * 64 := by omega
  have hrow : (r.val * 64 + c.val) / 64 = r.val := by omega
  have hcol : (r.val * 64 + c.val) % 64 = c.val := by omega
  rw [toRenderBuffer_eq, Vector.getElem?_toList, Vector.getElem?_flatMap, dif_pos hlt]
  simp [hrow, hcol, Grid.cell]

/-! ## The statements -/

/-- Settles O26: a baseline step commutes with a change of the Display (`step_withDisplay`), and `draw_eq` is all a draw
does. -/
theorem baselineNeverReachesDisplay : Obligations.BaselineNeverReachesDisplay :=
  ⟨fun _ _ _ hbase => step_withDisplay hbase, fun s x0 y0 bytes => congrArg Prod.snd (draw_eq x0 y0 bytes s)⟩

/-- Refutes O49: with the one covered cell already set, by an ordinary draw on the grid of reset, the first of two equal
draws turns it off and the second turns it on without a collision (log entry 12). -/
theorem not_secondDrawAlwaysCollides : ¬ Obligations.SecondDrawAlwaysCollides := by
  intro h
  obtain ⟨-, hsecond⟩ := h (drawSprite 0 0 [0x80] State.reset.pixel).1 0 0 [0x80]
  exact absurd (hsecond (by decide) ⟨0x80, by decide, by decide⟩) (by decide)

/-- Settles O51: a draw sets `dirty` at its end (`draw_eq`), and the reading half is `exec_forgets_dirty`. -/
theorem dirtyIsSetByDrawAndReadByNothing : Obligations.DirtyIsSetByDrawAndReadByNothing :=
  ⟨fun s x0 y0 bytes => congrArg (·.2.dirty) (draw_eq x0 y0 bytes s), exec_forgets_dirty⟩

/-- Settles O52: instructions by `exec_pixel`, the host's transactions one by one, and `0x00E0` by its group. -/
theorem onlyDrawChangesTheGrid : Obligations.OnlyDrawChangesTheGrid := by
  refine ⟨fun _ _ _ h => exec_pixel h, fun s => ⟨fun x b => ?_, fun v => ?_, fun v => ?_, fun _ _ h => ?_,
    fun _ _ _ h => ?_, fun _ _ _ h => ?_, ?_⟩, fun d => ?_⟩
  · exact writeV_pixel s x b
  · exact setI_pixel s v
  · exact setPc_pixel s v
  · exact hostSeedStack_pixel h
  · exact hostWriteMem_pixel h
  · exact loadImage_pixel h
  · exact clearDirty_pixel s
  · exact (decodeOpcode_group0 rfl).trans rfl

/-- Settles O53: the fields one by one. -/
theorem clearDirtyChangesOnlyDirty : Obligations.ClearDirtyChangesOnlyDirty :=
  fun s => ⟨clearDirty_dirty s, clearDirty_pixel s, fun r _ => readV_congr (clearDirty_V s) r, clearDirty_I s,
    clearDirty_pc s, ⟨clearDirty_sp s, clearDirty_stack s⟩, sameMemory_of_mem_eq (clearDirty_mem s),
    ⟨clearDirty_status s, clearDirty_drawOpcode s, clearDirty_outcome s⟩, clearDirty_rndIndex s⟩

/-- Settles O54: the length is the grid's 32 * 64, an entry is the colour of its cell (`toRenderBuffer_getElem?`), and a
packed colour is the 24-bit number it was (`cellColor_toNat`). -/
theorem renderBufferIsRowMajor : Obligations.RenderBufferIsRowMajor :=
  fun fg bg g => ⟨toRenderBuffer_length fg bg g, fun r c =>
    ⟨_, toRenderBuffer_getElem? fg bg g r c, cellColor_toNat fg bg (g.cell r c)⟩⟩

end Sys2Proof.Machine

/-! # Fatal conditions of a handler (60_exceptions.md R273, R274, R278)

`Raises` lists what a handler raises and when; `exec` is tied to it in both directions, so a faulted status is read back as
its cause, and the state beside `status` and the outcome as the state the handler was entered with. -/

namespace Sys2Proof.Machine

/-- The fatal conditions a handler raises, each with its cause and the information told. -/
inductive Raises (s : State) : Instr → FatalInfo → Prop where
  /-- R273 -/
  | call (nnn : Addr12) : s.sp.val = 16 → Raises s (.call nnn) .stackOverflow
  /-- R274 -/
  | ret : s.sp.val = 0 → Raises s .ret .stackUnderflow
  /-- 45_display.md R251 -/
  | drw (x y : RegIdx) (n : Nibble) : memSlice s s.I.toNat n.toNat = none →
      Raises s (.drw x y n) (.memoryOutOfRange (s.I.toNat + n.toNat - 1))

variable {i : Instr} {s t : State} {info : FatalInfo} {kind : FatalKind}

/-! ## The two directions -/

theorem exec_ret_of_empty (h : s.sp.val = 0) : exec .ret s = .next (faultedWith .stackUnderflow s) := by
  simp only [exec, execRet, pop_none.2 h, raise_eq]

theorem exec_drw_of_outside {x y : RegIdx} {n : Nibble} (h : memSlice s s.I.toNat n.toNat = none) :
    exec (.drw x y n) s = .next (faultedWith (.memoryOutOfRange (s.I.toNat + n.toNat - 1)) s) := by
  simp only [exec, execDrw, h, raise_eq]

theorem exec_of_raises (h : Raises s i info) : exec i s = .next (faultedWith info s) := by
  cases h with
  | call nnn hsp => exact exec_call_of_full nnn hsp
  | ret hsp => exact exec_ret_of_empty hsp
  | drw x y n hm => exact exec_drw_of_outside hm

theorem push_status {v : Word16} (h : push s v = some t) : t.status = s.status := by
  obtain ⟨_, rfl⟩ := push_some h
  rfl

theorem pop_status {v : Word16} (h : pop s = some (v, t)) : t.status = s.status := by
  obtain ⟨_, _, rfl⟩ := pop_some h
  rfl

theorem skipIf_status (cond : Bool) (s : State) : (skipIf cond s).status = s.status := by
  cases cond <;> rfl

/-- A handler raises one of its conditions, and then writes nothing else, or it keeps `status`. -/
theorem exec_raises_or_status (h : exec i s = .next t) :
    (∃ info, Raises s i info ∧ t = faultedWith info s) ∨ t.status = s.status := by
  cases i
  case call nnn =>
    obtain ⟨hsp, ht⟩ | ⟨u, hpush, rfl⟩ := execCall_cases h
    · exact .inl ⟨_, .call nnn hsp, ht⟩
    · exact .inr ((setPc_status u _).trans (push_status hpush))
  case ret =>
    obtain ⟨hsp, ht⟩ | ⟨target, u, hpop, rfl⟩ := execRet_cases h
    · exact .inl ⟨_, .ret hsp, ht⟩
    · exact .inr ((setPc_status u target).trans (pop_status hpop))
  case drw x y n =>
    obtain ⟨hm, ht⟩ | ⟨bytes, -, rfl⟩ := execDrw_cases h
    · exact .inl ⟨_, .drw x y n hm, ht⟩
    · exact .inr (by rw [writeV_status, draw_eq, withDisplay_status])
  case seImm | sneImm | seReg | sneReg => cases h; exact .inr (skipIf_status _ s)
  all_goals cases h; exact .inr rfl

/-! ## Faulted states read back -/

theorem exec_of_faulted (hs : s.status = .running) (h : exec i s = .next t) (ht : t.status = .faulted kind) :
    ∃ info, Raises s i info ∧ kindOf info = kind ∧ t = faultedWith info s := by
  obtain ⟨info, hr, rfl⟩ | hkeep := exec_raises_or_status h
  · exact ⟨info, hr, Status.faulted.inj ht, rfl⟩
  · rw [hkeep, hs] at ht
    cases ht

theorem exec_faulted_iff (hs : s.status = .running) (h : exec i s = .next t) :
    t.status = .faulted kind ↔ ∃ info, Raises s i info ∧ kindOf info = kind := by
  constructor
  · intro ht
    obtain ⟨info, hr, hk, -⟩ := exec_of_faulted hs h ht
    exact ⟨info, hr, hk⟩
  · rintro ⟨info, hr, rfl⟩
    obtain rfl := Host.Outcome.next.inj (h.symm.trans (exec_of_raises hr))
    exact faultedWith_status s info

/-! ## The causes of the two stack faults -/

theorem raises_stackOverflow_iff :
    (∃ info, Raises s i info ∧ kindOf info = .stackOverflow) ↔ (∃ nnn, i = .call nnn) ∧ s.sp.val = 16 := by
  constructor
  · rintro ⟨info, hr, hk⟩
    cases hr with
    | call nnn hsp => exact ⟨⟨nnn, rfl⟩, hsp⟩
    | ret | drw => cases hk
  · rintro ⟨⟨nnn, rfl⟩, hsp⟩
    exact ⟨_, .call nnn hsp, rfl⟩

theorem raises_stackUnderflow_iff :
    (∃ info, Raises s i info ∧ kindOf info = .stackUnderflow) ↔ i = .ret ∧ s.sp.val = 0 := by
  constructor
  · rintro ⟨info, hr, hk⟩
    cases hr with
    | ret hsp => exact ⟨rfl, hsp⟩
    | call | drw => cases hk
  · rintro ⟨rfl, hsp⟩
    exact ⟨_, .ret hsp, rfl⟩

/-- A handler that faults leaves the stack and `pc` as it found them. -/
theorem exec_faulted_keeps_stack_pc (hs : s.status = .running) (h : exec i s = .next t)
    (ht : t.status = .faulted kind) : t.sp = s.sp ∧ t.stack = s.stack ∧ t.pc = s.pc := by
  obtain ⟨info, -, -, rfl⟩ := exec_of_faulted hs h ht
  exact ⟨faultedWith_sp s info, faultedWith_stack s info, faultedWith_pc s info⟩

/-! ## The statement -/

/-- Settles O34: a faulted status has exactly the causes `Raises` lists, and the faulted state is the state before with
`status` and the outcome changed. -/
theorem stackFaultsExactly : Obligations.StackFaultsExactly := fun _ _ _ hs h =>
  ⟨(exec_faulted_iff hs h).trans raises_stackOverflow_iff, (exec_faulted_iff hs h).trans raises_stackUnderflow_iff,
    fun hf => hf.elim (exec_faulted_keeps_stack_pc hs h) (exec_faulted_keeps_stack_pc hs h)⟩

end Sys2Proof.Machine

/-! # The loader (70_reset_and_hazards.md R317)

An image is written byte by byte at ascending addresses. Each byte is written once, so the writes after it leave it alone:
that is the case of an address below the bytes still to be written. -/

namespace Sys2Proof.Machine

variable {s : State} {bytes : List Byte}

/-! ## Reading after bytes were written -/

/-- Bytes written to ascending addresses leave every other address as it was. -/
theorem Mem.read_writeBytes_outside {m : Mem} {addr other : Nat} (h : other < addr ∨ addr + bytes.length ≤ other) :
    Mem.read (writeBytes addr bytes m) other = Mem.read m other := by
  induction bytes generalizing m addr with
  | nil => rfl
  | cons b rest ih =>
    rw [List.length_cons] at h
    calc Mem.read (writeBytes (addr + 1) rest (Mem.write m addr b)) other
        = Mem.read (Mem.write m addr b) other := ih (by omega)
      _ = Mem.read m other := Mem.read_write_other b (by omega)

/-- Byte `k` of the bytes written to a canonical memory stands at the `k`-th address. -/
theorem Mem.read_writeBytes_at {m : Mem} {addr k : Nat} (hm : Mem.wf m = true) (hfit : addr + bytes.length ≤ memSize)
    (hk : k < bytes.length) : Mem.read (writeBytes addr bytes m) (addr + k) = bytes[k] := by
  induction bytes generalizing m addr k with
  | nil => exact absurd hk (Nat.not_lt_zero k)
  | cons b rest ih =>
    rw [List.length_cons] at hfit hk
    cases k with
    | zero => exact (Mem.read_writeBytes_outside (.inl (Nat.lt_succ_self addr))).trans (Mem.read_write_same addr b hm)
    | succ k =>
      have hm' : Mem.wf (Mem.write m addr b) = true := Mem.wf_write b hm (by omega)
      have hrest := ih hm' (show addr + 1 + rest.length ≤ memSize by omega) (Nat.lt_of_succ_lt_succ hk)
      rwa [Nat.add_right_comm] at hrest

/-! ## Fetching a byte pair -/

/-- The byte at the lower address is the high byte (20_memory.md R62). -/
theorem composeOpcode_toNat (byte0 byte1 : Byte) :
    (composeOpcode byte0 byte1).toNat = byte0.toNat * 256 + byte1.toNat := by
  rw [composeOpcode, BitVec.toNat_append, ← Nat.shiftLeft_add_eq_or_of_lt byte1.isLt, Nat.shiftLeft_eq]

/-- A fetch at an address whose pair lies inside memory reads that pair. -/
theorem fetch_setPc_ofNat {addr : Nat} (h : addr + 1 < memSize) :
    fetch (setPc s (BitVec.ofNat 16 addr)) = some (composeOpcode (memByte s addr) (memByte s (addr + 1))) := by
  unfold memSize at h
  have hpc : (setPc s (BitVec.ofNat 16 addr)).pc.toNat = addr :=
    (BitVec.toNat_ofNat addr 16).trans (Nat.mod_eq_of_lt (by omega))
  rw [fetch_some, hpc]
  exact ⟨by omega, rfl⟩

/-! ## The statement -/

/-- An image that fits is loaded, and memory is all that changes. -/
theorem loadImage_of_fits {base : Nat} {image : List Byte} (h : base + image.length ≤ memSize) :
    loadImage base image s = some { s with mem := writeBytes base image s.mem } := if_pos h

/-- Settles O56: the loaded memory is the image's bytes written one after another, and a byte pair of the image is what a
fetch at its address reads. -/
theorem loaderPlacesImage : Obligations.LoaderPlacesImage := by
  intro s base image hm hfit
  have hbyte : ∀ k (h : k < image.length), Mem.read (writeBytes base image s.mem) (base + k) = image[k] :=
    fun _ => Mem.read_writeBytes_at hm hfit
  refine ⟨_, loadImage_of_fits hfit, hbyte, fun k hk => ?_, fun _ => Mem.read_writeBytes_outside,
    Mem.wf_writeBytes hm hfit, rfl⟩
  refine ⟨_, fetch_setPc_ofNat (show base + k + 1 < 4096 by omega), ?_⟩
  rw [composeOpcode_toNat]
  exact congrArg₂ (fun hi lo : Byte => hi.toNat * 256 + lo.toNat) (hbyte k (by omega)) (hbyte (k + 1) hk)

end Sys2Proof.Machine

/-! # Decoding and encoding are inverse (30_encoding.md R101, R103, R110) -/

namespace Sys2Proof

variable {d : Bool} {op : Word16} {i : Instr}

/-- The decoder finds the group and the digit each format was built with, and gives the format's fields back. -/
theorem decodeOpcode_encode (h : wellFormed d i = true) : decodeOpcode d (encode i) = .ok i := by
  cases i
  case halt | ret => rfl
  case jp | call | ldI | jpV0 => simp [encode, decodeOpcode]
  case seImm | sneImm | ldImm | addImm | rnd => simp [encode, decodeOpcode]
  case seReg | sneReg => simp [encode, decodeOpcode]
  case drw x y n =>
    have hd : d = true := h
    simp [encode, decodeOpcode, hd]
  all_goals simp [encode, decodeOpcode, decodeGroup8]

/-- The decoder on the two bytes of an opcode is the decoder on the opcode. -/
theorem decode_opcodeBytes_of_ok (h : decodeOpcode d op = .ok i) (rest : List Byte) :
    decode d (opcodeBytes op ++ rest) = .ok (i, rest) := by
  simp only [opcodeBytes, List.cons_append, List.nil_append, decode, composeOpcode_bytes, h]

end Sys2Proof

namespace Sys2Proof.Machine

/-- Settles O5: `decodeOpcode_encode` on the opcode, and its bytes compose to the opcode again. -/
theorem decodeOfEncodeIsIdentity : Obligations.DecodeOfEncodeIsIdentity := fun _ _ hwf =>
  ⟨decodeOpcode_encode hwf, decode_opcodeBytes_of_ok (decodeOpcode_encode hwf)⟩

/-- Settles O6: this is `encode_of_decodeOpcode`, by the sixteen groups. -/
theorem decodedOpcodeIsItsEncoding : Obligations.DecodedOpcodeIsItsEncoding :=
  fun _ _ _ h => encode_of_decodeOpcode h

/-- Settles O8: an opcode decodes to an instruction of each row it selects (`decodeOpcode_of_selectsRow`), and it decodes
to one instruction only. -/
theorem opcodeRowsAreDisjoint : Obligations.OpcodeRowsAreDisjoint := by
  intro d op row hrow row' hrow' h h'
  obtain ⟨i, hi, rfl⟩ := decodeOpcode_of_selectsRow hrow h
  obtain ⟨i', hi', rfl⟩ := decodeOpcode_of_selectsRow hrow' h'
  exact congrArg rowOf (Except.ok.inj (hi.symm.trans hi'))

/-- Settles O4: eighteen opcode words, each evaluated. -/
theorem spelledOutOpcodesDecode : Obligations.SpelledOutOpcodesDecode := by
  unfold Obligations.SpelledOutOpcodesDecode
  decide

end Sys2Proof.Machine

/-! # Everything an instruction can do

`Effect s i t` lists the states `t` an instruction `i` can lead to from `s`, one constructor per kind of effect and not
per instruction. What an instruction may change follows by cases on it. -/

namespace Sys2Proof.Machine

variable {i : Instr} {s t : State}

/-! ## The call stack by its slots (10_state.md R31 to R33) -/

/-- `CALL` as it leaves the state when slot `k` is the first free one (40_cycle_and_control.md R129). -/
def called (nnn : Addr12) (k : Fin 16) (s : State) : State :=
  { s with stack := s.stack.set k.val s.pc, sp := k.succ, pc := absAddr nnn }

/-- `RET` as it leaves the state when slot `k` is the top one (R127). -/
def returned (k : Fin 16) (s : State) : State := { s with sp := k.castSucc, pc := s.stack.get k }

theorem pop_of_top {k : Fin 16} (h : s.sp.val = k.val + 1) :
    pop s = some (s.stack.get k, { s with sp := k.castSucc }) := by
  have hpos : 0 < s.sp.val := by omega
  have hk : s.sp.val - 1 = k.val := by omega
  simp only [pop_of_pos hpos, hk]
  rfl

theorem exec_ret_of_top {k : Fin 16} (h : s.sp.val = k.val + 1) : exec .ret s = .next (returned k s) := by
  simp only [exec, execRet, pop_of_top h]
  rfl

theorem push_of_free {k : Fin 16} (h : s.sp.val = k.val) (v : Word16) :
    push s v = some { s with stack := s.stack.set k.val v, sp := k.succ } := by
  have hlt : s.sp.val < 16 := h.trans_lt k.isLt
  simp only [push_of_lt v hlt, h]
  rfl

theorem exec_call_of_free {k : Fin 16} (h : s.sp.val = k.val) (nnn : Addr12) :
    exec (.call nnn) s = .next (called nnn k s) :=
  exec_call_of_push nnn (push_of_free h s.pc)

/-- The stack is empty or has a top slot. -/
theorem sp_zero_or_top (s : State) : s.sp.val = 0 ∨ ∃ k : Fin 16, s.sp.val = k.val + 1 := by
  have hsp := s.sp.isLt
  rcases Nat.eq_zero_or_pos s.sp.val with h | h
  · exact .inl h
  · exact .inr ⟨⟨s.sp.val - 1, by omega⟩, (Nat.sub_add_cancel h).symm⟩

/-- The stack is full or has a free slot. -/
theorem sp_full_or_free (s : State) : s.sp.val = 16 ∨ ∃ k : Fin 16, s.sp.val = k.val :=
  (Nat.lt_succ_iff_lt_or_eq.1 s.sp.isLt).symm.imp_right fun h => ⟨⟨s.sp.val, h⟩, rfl⟩

/-! ## The effects -/

/-- The condition of a skip (41_skips.md R151 to R154); `none` for every other instruction. -/
def skipCond (s : State) : Instr → Option Bool
  | .seImm x nn => some (readV s x == nn)
  | .sneImm x nn => some (readV s x != nn)
  | .seReg x y => some (readV s x == readV s y)
  | .sneReg x y => some (readV s x != readV s y)
  | _ => none

/-- What an instruction can do, with what later proofs need to know of it. -/
inductive Effect (s : State) : Instr → State → Prop where
  | fault {i : Instr} {info : FatalInfo} : Raises s i info → Effect s i (faultedWith info s)
  | halt : Effect s .halt (signalHalt s)
  | ret (k : Fin 16) : s.sp.val = k.val + 1 → Effect s .ret (returned k s)
  | jp (nnn : Addr12) : Effect s (.jp nnn) (setPc s (absAddr nnn))
  | call (nnn : Addr12) (k : Fin 16) : s.sp.val = k.val → Effect s (.call nnn) (called nnn k s)
  | jpV0 (nnn : Addr12) : Effect s (.jpV0 nnn) (setPc s (indexedAddr s nnn))
  | skip {i : Instr} (cond : Bool) : skipCond s i = some cond →
      Effect s i (setPc s (if cond then s.pc + 2 else s.pc))
  | ldI (nnn : Addr12) : Effect s (.ldI nnn) (setI s (absAddr nnn))
  | result {i : Instr} (x : RegIdx) (b : Byte) : destReg i = some x → writesFlag i = false → Effect s i (writeV s x b)
  | resultFlag {i : Instr} (x : RegIdx) (b : Byte) (f : Bool) : destReg i = some x → writesFlag i = true →
      Effect s i (writeResultThenFlag s x b (flagByte f))
  | rnd (x : RegIdx) (nn b : Byte) : Effect s (.rnd x nn) (writeV (consumeRnd s) x b)
  | drw (x y : RegIdx) (n : Nibble) (g : Grid) (f : Bool) :
      Effect s (.drw x y n) (writeV (withDisplay g true s) vf (flagByte f))

theorem skipIf_eq_setPc (cond : Bool) (s : State) : skipIf cond s = setPc s (if cond then s.pc + 2 else s.pc) := by
  cases cond <;> rfl

theorem effect_of_skip {cond : Bool} (hcond : skipCond s i = some cond)
    (h : (.next (skipIf cond s) : Host.Outcome State Fault Refusal) = .next t) : Effect s i t := by
  rw [← Host.Outcome.next.inj h, skipIf_eq_setPc]
  exact .skip cond hcond

theorem effect_of_ret (h : exec .ret s = .next t) : Effect s .ret t := by
  obtain hsp | ⟨k, hk⟩ := sp_zero_or_top s
  · cases (exec_ret_of_empty hsp).symm.trans h; exact .fault (.ret hsp)
  · cases (exec_ret_of_top hk).symm.trans h; exact .ret k hk

theorem effect_of_call {nnn : Addr12} (h : exec (.call nnn) s = .next t) : Effect s (.call nnn) t := by
  obtain hsp | ⟨k, hk⟩ := sp_full_or_free s
  · cases (exec_call_of_full nnn hsp).symm.trans h; exact .fault (.call nnn hsp)
  · cases (exec_call_of_free hk nnn).symm.trans h; exact .call nnn k hk

theorem effect_of_drw {x y : RegIdx} {n : Nibble} (h : execDrw x y n s = .next t) : Effect s (.drw x y n) t := by
  obtain ⟨hm, rfl⟩ | ⟨bytes, -, rfl⟩ := execDrw_cases h
  · exact .fault (.drw x y n hm)
  · exact .drw x y n _ _

theorem effect_of_exec (h : exec i s = .next t) : Effect s i t := by
  cases i
  case ret => exact effect_of_ret h
  case call nnn => exact effect_of_call h
  case drw x y n => exact effect_of_drw h
  case halt => cases h; exact .halt
  case jp nnn => cases h; exact .jp nnn
  case jpV0 nnn => cases h; exact .jpV0 nnn
  case ldI nnn => cases h; exact .ldI nnn
  case rnd x nn => cases h; exact .rnd x nn _
  case seImm | sneImm | seReg | sneReg => exact effect_of_skip rfl h
  case ldImm | addImm | ldReg | orReg | andReg | xorReg => cases h; exact .result _ _ rfl rfl
  case addReg | sub | shr | subn | shl => cases h; exact .resultFlag _ _ _ rfl rfl

/-! ## Which field each effect writes -/

/-- R31, R32. -/
theorem Effect.stack_cases (h : Effect s i t) :
    (t.sp = s.sp ∧ t.stack = s.stack) ∨ ((∃ nnn, i = .call nnn) ∧ t.sp.val = s.sp.val + 1) ∨
      (i = .ret ∧ t.sp.val + 1 = s.sp.val ∧ t.stack = s.stack) := by
  cases h
  case call nnn k hk => exact .inr (.inl ⟨⟨nnn, rfl⟩, congrArg (· + 1) hk.symm⟩)
  case ret k hk => exact .inr (.inr ⟨rfl, hk.symm, rfl⟩)
  all_goals exact .inl ⟨rfl, rfl⟩

/-- R22, R23. -/
theorem Effect.readV_of_ne (h : Effect s i t) {r : RegIdx} (hr : readV t r ≠ readV s r) :
    destReg i = some r ∨ (r = vf ∧ writesFlag i = true) := by
  cases h
  case result x b hdest _ =>
    obtain rfl : r = x := by_contra fun hne => hr (readV_writeV_other s b hne)
    exact .inl hdest
  case rnd x nn b =>
    obtain rfl : r = x := by_contra fun hne => hr (readV_writeV_other (consumeRnd s) b hne)
    exact .inl rfl
  case resultFlag x b f hdest hflag =>
    by_cases hvf : r = vf
    · exact .inr ⟨hvf, hflag⟩
    · obtain rfl : r = x := by_contra fun hne => hr (readV_writeResultThenFlag_other s b _ hne hvf)
      exact .inl hdest
  case drw x y n g f =>
    exact .inr ⟨by_contra fun hne => hr (readV_writeV_other (withDisplay g true s) _ hne), rfl⟩
  all_goals exact absurd rfl hr

/-- R25. -/
theorem Effect.index_cases (h : Effect s i t) : t.I = s.I ∨ ∃ nnn, i = .ldI nnn ∧ t.I = absAddr nnn := by
  cases h
  case ldI nnn => exact .inr ⟨nnn, rfl, rfl⟩
  all_goals exact .inl rfl

/-- 00_scope.md R8. -/
theorem Effect.drawOpcode_eq (h : Effect s i t) : t.drawOpcode = s.drawOpcode := by
  cases h <;> rfl

/-- 44_random.md R221. -/
theorem Effect.rndIndex_eq (h : Effect s i t) (hi : ∀ x nn, i ≠ .rnd x nn) : t.rndIndex = s.rndIndex := by
  cases h
  case rnd x nn b => exact absurd rfl (hi x nn)
  all_goals rfl

theorem ne_halt_of_skipCond {cond : Bool} (h : skipCond s i = some cond) : i ≠ .halt := by
  rintro rfl
  cases h

theorem ne_halt_of_destReg {x : RegIdx} (h : destReg i = some x) : i ≠ .halt := by
  rintro rfl
  cases h

/-- 40_cycle_and_control.md R125: a fault, or `status` kept and the outcome overwritten by `HALT` alone. -/
theorem Effect.outcome_cases (h : Effect s i t) :
    (∃ info, t = faultedWith info s) ∨
      (t.status = s.status ∧
        ((i = .halt ∧ t.outcome = some .haltSignal) ∨ (i ≠ .halt ∧ t.outcome = s.outcome))) := by
  cases h
  case fault info _ => exact .inl ⟨info, rfl⟩
  case halt => exact .inr ⟨rfl, .inl ⟨rfl, rfl⟩⟩
  case skip cond hcond => exact .inr ⟨rfl, .inr ⟨ne_halt_of_skipCond hcond, rfl⟩⟩
  case result hdest _ | resultFlag hdest _ => exact .inr ⟨rfl, .inr ⟨ne_halt_of_destReg hdest, rfl⟩⟩
  all_goals exact .inr ⟨rfl, .inr ⟨nofun, rfl⟩⟩

theorem writesFlag_of_skipCond {cond : Bool} (h : skipCond s i = some cond) : writesFlag i = false := by
  cases i
  case addReg | sub | shr | subn | shl | drw => cases h
  all_goals rfl

/-- R23: a flag-writing instruction that does not fault leaves a flag's byte. -/
theorem Effect.flag_byte (h : Effect s i t) (ht : t.status = .running) (hflag : writesFlag i = true) :
    ∃ f, readV t vf = flagByte f := by
  cases h
  case fault => cases ht
  case resultFlag x b f _ _ => exact ⟨f, readV_writeResultThenFlag_vf s x b _⟩
  case drw x y n g f => exact ⟨f, readV_writeV_same _ vf _⟩
  case skip cond hcond => exact absurd (hflag.symm.trans (writesFlag_of_skipCond hcond)) (by decide)
  case result hno => exact absurd (hflag.symm.trans hno) (by decide)
  all_goals cases hflag

/-! ## `pc` (10_state.md R28) -/

/-- The row of a skip. -/
theorem pcAfter_of_skipCond {cond : Bool} (a : Nat) (h : skipCond s i = some cond) :
    pcAfter a s i = if cond then a + 4 else a + 2 := by
  cases i
  case seImm | sneImm | seReg | sneReg => cases h; simp [pcAfter]
  all_goals cases h

/-- The row of an instruction with a destination register. -/
theorem pcAfter_of_destReg {x : RegIdx} (a : Nat) (s : State) (h : destReg i = some x) : pcAfter a s i = a + 2 := by
  cases i
  case halt | ret | jp | call | seImm | sneImm | seReg | sneReg | ldI | jpV0 | drw => cases h
  all_goals rfl

theorem skipCond_advance (s : State) (i : Instr) : skipCond (advance s) i = skipCond s i := by
  cases i <;> rfl

/-- A skip from inside memory does not wrap (41_skips.md R150). -/
theorem skip_toNat {p : Word16} (hp : p.toNat ≤ 4096) (cond : Bool) :
    (if cond then p + 2 else p).toNat = if cond then p.toNat + 2 else p.toNat := by
  cases cond
  case false => rfl
  case true =>
    have hwrap : (p.toNat + 2) % 2 ^ 16 = p.toNat + 2 := by omega
    exact (BitVec.toNat_add p 2).trans hwrap

/-- What the table gives is where the effect leaves `pc`, when the fetch address `s.pc` is inside memory. -/
theorem Effect.pc_eq (h : Effect (advance s) i t) (hpc : s.pc.toNat ≤ 4094) (ht : t.status = .running) :
    t.pc.toNat = pcAfter s.pc.toNat s i := by
  have hadv : (advance s).pc.toNat = s.pc.toNat + 2 := advance_toNat hpc
  cases h
  case fault => cases ht
  case ret k hk =>
    have hk' : s.sp.val - 1 = k.val := by rw [← advance_sp, hk, Nat.add_sub_cancel]
    simp [pcAfter, hk', returned, Vector.get_eq_getElem]
  case jp nnn => exact absAddr_toNat nnn
  case call nnn k _ => exact absAddr_toNat nnn
  case jpV0 nnn => exact indexedAddr_toNat (advance s) nnn
  case skip cond hcond =>
    rw [skipCond_advance] at hcond
    rw [setPc_pc, skip_toNat (by omega), hadv, pcAfter_of_skipCond _ hcond]
  case result hdest _ | resultFlag hdest _ => rw [pcAfter_of_destReg _ s hdest]; exact hadv
  all_goals exact hadv

/-- The bound of R30: a jump reaches at most `0xFF + 0xFFF`, a return a valid stack entry, and everything else at most 2
past the advanced `pc`. -/
theorem Effect.pc_le (h : Effect s i t) (hpc : s.pc.toNat ≤ 4096)
    (hstack : ∀ k : Fin 16, k.val < s.sp.val → (s.stack.get k).toNat ≤ 4096) : t.pc.toNat ≤ 0x10FE := by
  cases h
  case ret k hk =>
    have hentry : (returned k s).pc.toNat ≤ 4096 := hstack k (by omega)
    omega
  case jp nnn | call nnn k _ =>
    have htarget : (absAddr nnn).toNat < 4096 := (absAddr_toNat nnn).trans_lt nnn.isLt
    exact htarget.le.trans (by decide)
  case jpV0 nnn =>
    have hsum := indexedAddr_toNat s nnn
    have hV0 := (readV s 0).isLt
    have hnnn := nnn.isLt
    rw [setPc_pc]
    omega
  case skip cond _ =>
    rw [setPc_pc, skip_toNat hpc]
    split <;> omega
  all_goals exact hpc.trans (by decide)

/-- `CALL` pushes an advanced `pc`, and `RET` only takes an entry out of the count. -/
theorem Effect.stack_le (h : Effect s i t) (hpc : s.pc.toNat ≤ 4096)
    (hstack : ∀ k : Fin 16, k.val < s.sp.val → (s.stack.get k).toNat ≤ 4096) :
    ∀ k : Fin 16, k.val < t.sp.val → (t.stack.get k).toNat ≤ 4096 := by
  cases h
  case call nnn k hk =>
    intro j hj
    have hread : (called nnn k s).stack.get j = if k.val = j.val then s.pc else s.stack.get j :=
      Vector.getElem_set (hi := k.isLt) ..
    rw [hread]
    split
    next => exact hpc
    next hne =>
      have hj' : j.val < k.val + 1 := hj
      exact hstack j (by omega)
  case ret k hk =>
    intro j hj
    have hj' : j.val < k.val := hj
    exact hstack j (by omega)
  all_goals exact hstack

end Sys2Proof.Machine

/-! # What a step keeps and tells (40_cycle_and_control.md R120 to R125, 60_exceptions.md R271 to R278) -/

namespace Sys2Proof.Machine

variable {i : Instr} {s t : State} {op : Word16} {kind : FatalKind}

/-! ## The outcome told -/

/-- The opcode `0x0000` is `HALT`, and no other opcode is. -/
theorem eq_halt_iff_of_decodeOpcode {d : Bool} (h : decodeOpcode d op = .ok i) : i = .halt ↔ op = 0x0000 := by
  constructor
  · rintro rfl
    exact (encode_of_decodeOpcode h).1.symm
  · rintro rfl
    exact (Except.ok.inj ((decodeOpcode_group0 rfl).symm.trans h)).symm

/-- Settles O13: a failed fetch and an opcode without a row fault; of what is decoded, `HALT` signals and everything else
leaves the outcome `Continue` of the advance (`Effect.outcome_cases`). -/
theorem stepTellsItsOutcome : Obligations.StepTellsItsOutcome := by
  intro s t h
  obtain ⟨hs, ⟨-, rfl⟩ | ⟨op, e, -, -, rfl⟩ | ⟨op, i, hf, hd, hx⟩⟩ := step_cases h
  · exact .inl ⟨_, rfl, rfl⟩
  · exact .inl ⟨_, rfl, rfl⟩
  · obtain ⟨info, rfl⟩ | ⟨hstatus, ⟨hi, hout⟩ | ⟨hi, hout⟩⟩ := (effect_of_exec hx).outcome_cases
    · exact .inl ⟨info, rfl, rfl⟩
    · have hop : op = 0x0000 := (eq_halt_iff_of_decodeOpcode hd).1 hi
      exact .inr (.inl ⟨hstatus.trans hs, hop ▸ hf, hout⟩)
    · have hop : op ≠ 0x0000 := mt (eq_halt_iff_of_decodeOpcode hd).2 hi
      exact .inr (.inr ⟨hstatus.trans hs, ⟨op, hf, hop⟩, hout⟩)

/-! ## The invariant (10_state.md R41) -/

theorem outcomeAgrees_of_faulted {info : FatalInfo} (hs : s.status = .faulted (kindOf info))
    (ho : s.outcome = some (.fault info)) : OutcomeAgrees s := by
  intro kind
  constructor
  · intro h
    exact ⟨info, ho, Status.faulted.inj (hs.symm.trans h)⟩
  · rintro ⟨info', ho', rfl⟩
    obtain rfl : info = info' := StepOutcome.fault.inj (Option.some.inj (ho.symm.trans ho'))
    exact hs

theorem outcomeAgrees_of_running (hs : s.status = .running) (ho : ∀ info, s.outcome ≠ some (.fault info)) :
    OutcomeAgrees s := by
  intro kind
  constructor
  · intro h
    cases hs.symm.trans h
  · rintro ⟨info, ho', -⟩
    exact absurd ho' (ho info)

theorem step_outcomeAgrees (h : step s = .next t) : OutcomeAgrees t := by
  obtain ⟨info, hs, ho⟩ | ⟨hs, -, ho⟩ | ⟨hs, -, ho⟩ := stepTellsItsOutcome s t h
  · exact outcomeAgrees_of_faulted hs ho
  · exact outcomeAgrees_of_running hs fun info => by simp [ho]
  · exact outcomeAgrees_of_running hs fun info => by simp [ho]

/-- A fetch that succeeded is followed by an advance that stays within the bound of a stack entry. -/
theorem advance_pc_le_of_fetch (h : fetch s = some op) : (advance s).pc.toNat ≤ 4096 := by
  have hpc : s.pc.toNat ≤ 4094 := (fetch_some.1 h).1
  rw [advance_toNat hpc]
  omega

/-- The part of the invariant about addresses: `pc` and the valid stack entries. -/
theorem step_addresses (hpc : s.pc.toNat ≤ 0x10FE)
    (hstack : ∀ k : Fin 16, k.val < s.sp.val → (s.stack.get k).toNat ≤ 4096) (h : step s = .next t) :
    t.pc.toNat ≤ 0x10FE ∧ ∀ k : Fin 16, k.val < t.sp.val → (t.stack.get k).toNat ≤ 4096 := by
  obtain ⟨-, ⟨-, rfl⟩ | ⟨op, e, hf, -, rfl⟩ | ⟨op, i, hf, -, hx⟩⟩ := step_cases h
  · exact ⟨hpc, hstack⟩
  · exact ⟨(advance_pc_le_of_fetch hf).trans (by decide), hstack⟩
  · have heffect : Effect (advance s) i t := effect_of_exec hx
    exact ⟨heffect.pc_le (advance_pc_le_of_fetch hf) hstack, heffect.stack_le (advance_pc_le_of_fetch hf) hstack⟩

/-- Settles O18: memory is kept (`step_mem`), the bounds of `pc` and of the stack entries carry each other
(`step_addresses`), and `status` and the outcome are written together. -/
theorem stepKeepsInvariant : Obligations.StepKeepsInvariant := by
  rintro s t ⟨hmem, hpc, hstack, -⟩ h
  obtain ⟨hpc', hstack'⟩ := step_addresses hpc hstack h
  exact ⟨(step_mem h).symm ▸ hmem, hpc', hstack', step_outcomeAgrees h⟩

/-- Settles O17: after reset memory is empty, `pc` and `sp` are 0, and nothing has been told. -/
theorem resetMeetsInvariant : Obligations.ResetMeetsInvariant :=
  ⟨Mem.wf_reset, Nat.zero_le _, fun k hk => absurd hk (Nat.not_lt_zero k.val),
    outcomeAgrees_of_running rfl nofun⟩

/-! ## The parameter and `pc` -/

/-- Settles O25: no fault and no effect writes the parameter. -/
theorem noStepChangesTheParameter : Obligations.NoStepChangesTheParameter := by
  intro s t h
  obtain ⟨-, ⟨-, rfl⟩ | ⟨op, e, -, -, rfl⟩ | ⟨op, i, -, -, hx⟩⟩ := step_cases h
  · exact faultedWith_drawOpcode s _
  · exact faultedWith_drawOpcode (advance s) _
  · exact (effect_of_exec hx).drawOpcode_eq

/-- Settles O14: the step is the effect of the decoded instruction on the advanced state (`Effect.pc_eq`). -/
theorem pcAfterEachInstruction : Obligations.PcAfterEachInstruction := by
  intro s t op i h ht hf hd
  obtain ⟨hs, -⟩ := step_cases h
  have hx : exec i (advance s) = .next t := (step_of_decode hs hf hd).symm.trans h
  exact (effect_of_exec hx).pc_eq (fetch_some.1 hf).1 ht

/-! ## Fatal conditions -/

/-- The fatal conditions a step raises, in the order it checks for them (60_exceptions.md R277). -/
inductive StepRaises (s : State) : FatalInfo → Prop where
  /-- R271 -/
  | fetch : fetch s = none → StepRaises s (.memoryOutOfRange s.pc.toNat)
  /-- R272 -/
  | decode {op : Word16} {e : DecodeError} : fetch s = some op → decodeOpcode s.drawOpcode op = .error e →
      StepRaises s (.unimplementedOpcode op)
  /-- R273, R274, 45_display.md R251 -/
  | exec {op : Word16} {i : Instr} {info : FatalInfo} : fetch s = some op → decodeOpcode s.drawOpcode op = .ok i →
      Raises (advance s) i info → StepRaises s info

/-- The state a fatal step raises its condition in: `pc` is advanced exactly when the fetch succeeded. -/
def faultPoint (s : State) : State := if 4094 < s.pc.toNat then s else advance s

theorem faultPoint_of_fetch_none (h : fetch s = none) : faultPoint s = s := if_pos (fetch_none.1 h)

theorem faultPoint_of_fetch_some (h : fetch s = some op) : faultPoint s = advance s :=
  if_neg (Nat.not_lt.2 (fetch_some.1 h).1)

theorem step_of_stepRaises {info : FatalInfo} (hs : s.status = .running) (h : StepRaises s info) :
    step s = .next (faultedWith info (faultPoint s)) := by
  cases h with
  | fetch hf => rw [step_of_fetch_none hs hf, faultPoint_of_fetch_none hf, fetchFault, raise_eq]
  | decode hf hd => rw [step_of_decode_error hs hf hd, faultPoint_of_fetch_some hf, dispatchFault, raise_eq]
  | exec hf hd hr => rw [step_of_decode hs hf hd, faultPoint_of_fetch_some hf, exec_of_raises hr]

theorem step_of_faulted_next (h : step s = .next t) (ht : t.status = .faulted kind) :
    ∃ info, StepRaises s info ∧ kindOf info = kind ∧ t = faultedWith info (faultPoint s) := by
  obtain ⟨hs, ⟨hf, rfl⟩ | ⟨op, e, hf, hd, rfl⟩ | ⟨op, i, hf, hd, hx⟩⟩ := step_cases h
  · exact ⟨_, .fetch hf, Status.faulted.inj ht, by rw [faultPoint_of_fetch_none hf]⟩
  · exact ⟨_, .decode hf hd, Status.faulted.inj ht, by rw [faultPoint_of_fetch_some hf]⟩
  · obtain ⟨info, hr, hk, rfl⟩ := exec_of_faulted (s := advance s) hs hx ht
    exact ⟨info, .exec hf hd hr, hk, by rw [faultPoint_of_fetch_some hf]⟩

theorem step_faulted_iff (h : step s = .next t) :
    t.status = .faulted kind ↔ ∃ info, StepRaises s info ∧ kindOf info = kind := by
  constructor
  · intro ht
    obtain ⟨info, hr, hk, -⟩ := step_of_faulted_next h ht
    exact ⟨info, hr, hk⟩
  · rintro ⟨info, hr, rfl⟩
    obtain ⟨hs, -⟩ := step_cases h
    obtain rfl := Host.Outcome.next.inj (h.symm.trans (step_of_stepRaises hs hr))
    exact faultedWith_status (faultPoint s) info

/-- Settles O15: a fatal step answers the state its condition was raised in, with `status` and the outcome set. -/
theorem fatalStepIsPrecise : Obligations.FatalStepIsPrecise := by
  intro s t kind h ht
  obtain ⟨info, -, rfl, rfl⟩ := step_of_faulted_next h ht
  refine ⟨info, rfl, ?_⟩
  unfold faultPoint
  split <;> rfl

/-! ## The four causes -/

/-- `memSlice` in the numbers of 45_display.md R251. -/
theorem memSlice_none_iff (n : Nibble) :
    memSlice s s.I.toNat n.toNat = none ↔ n ≠ 0 ∧ 4095 < s.I.toNat + n.toNat - 1 := by
  have hne : n ≠ 0 ↔ n.toNat ≠ 0 := (BitVec.toNat_eq (y := 0#4)).not
  rw [memSlice_eq_none, memSize, hne]
  omega

theorem stepRaises_memoryOutOfRange_iff :
    (∃ info, StepRaises s info ∧ kindOf info = .memoryOutOfRange) ↔ 4094 < s.pc.toNat ∨
      ∃ op x y n, fetch s = some op ∧ decodeOpcode s.drawOpcode op = .ok (.drw x y n) ∧ n ≠ 0 ∧
        4095 < s.I.toNat + n.toNat - 1 := by
  constructor
  · rintro ⟨info, hr, hk⟩
    cases hr with
    | fetch hf => exact .inl (fetch_none.1 hf)
    | decode => cases hk
    | exec hf hd hx =>
      cases hx with
      | drw x y n hm => exact .inr ⟨_, x, y, n, hf, hd, (memSlice_none_iff n).1 hm⟩
      | call | ret => cases hk
  · rintro (hpc | ⟨op, x, y, n, hf, hd, hn⟩)
    · exact ⟨_, .fetch (fetch_none.2 hpc), rfl⟩
    · exact ⟨_, .exec hf hd (.drw x y n ((memSlice_none_iff n).2 hn)), rfl⟩

/-- An opcode is refused exactly when no row of the map is its own (30_encoding.md R104). -/
theorem decodeOpcode_error_iff {d : Bool} :
    (∃ e, decodeOpcode d op = .error e) ↔ ∀ row ∈ opcodeTable d, ¬ selectsRow op row := by
  constructor
  · rintro ⟨e, he⟩ row hrow hsel
    obtain ⟨i, hi, -⟩ := decodeOpcode_of_selectsRow hrow hsel
    cases he.symm.trans hi
  · intro hno
    cases hd : decodeOpcode d op with
    | error e => exact ⟨e, rfl⟩
    | ok i =>
      obtain ⟨hrow, hsel⟩ := selectsRow_of_decodeOpcode hd
      exact absurd hsel (hno _ hrow)

theorem stepRaises_unimplementedOpcode_iff :
    (∃ info, StepRaises s info ∧ kindOf info = .unimplementedOpcode) ↔
      ∃ op, fetch s = some op ∧ ∀ row ∈ opcodeTable s.drawOpcode, ¬ selectsRow op row := by
  constructor
  · rintro ⟨info, hr, hk⟩
    cases hr with
    | fetch => cases hk
    | decode hf hd => exact ⟨_, hf, decodeOpcode_error_iff.1 ⟨_, hd⟩⟩
    | exec _ _ hx => cases hx <;> cases hk
  · rintro ⟨op, hf, hno⟩
    obtain ⟨e, hd⟩ := decodeOpcode_error_iff.2 hno
    exact ⟨_, .decode hf hd, rfl⟩

theorem stepRaises_stackOverflow_iff :
    (∃ info, StepRaises s info ∧ kindOf info = .stackOverflow) ↔
      ∃ op nnn, fetch s = some op ∧ decodeOpcode s.drawOpcode op = .ok (.call nnn) ∧ s.sp.val = 16 := by
  constructor
  · rintro ⟨info, hr, hk⟩
    cases hr with
    | fetch | decode => cases hk
    | exec hf hd hx =>
      obtain ⟨⟨nnn, rfl⟩, hsp⟩ := raises_stackOverflow_iff.1 ⟨info, hx, hk⟩
      exact ⟨_, nnn, hf, hd, hsp⟩
  · rintro ⟨op, nnn, hf, hd, hsp⟩
    exact ⟨_, .exec hf hd (.call nnn hsp), rfl⟩

theorem stepRaises_stackUnderflow_iff :
    (∃ info, StepRaises s info ∧ kindOf info = .stackUnderflow) ↔
      ∃ op, fetch s = some op ∧ decodeOpcode s.drawOpcode op = .ok .ret ∧ s.sp.val = 0 := by
  constructor
  · rintro ⟨info, hr, hk⟩
    cases hr with
    | fetch | decode => cases hk
    | exec hf hd hx =>
      obtain ⟨rfl, hsp⟩ := raises_stackUnderflow_iff.1 ⟨info, hx, hk⟩
      exact ⟨_, hf, hd, hsp⟩
  · rintro ⟨op, hf, hd, hsp⟩
    exact ⟨_, .exec hf hd (.ret hsp), rfl⟩

/-- Settles O16: a faulted status has exactly the causes `StepRaises` lists, read off kind by kind. -/
theorem eachFatalConditionHasItsCause : Obligations.EachFatalConditionHasItsCause := fun _ _ h =>
  ⟨(step_faulted_iff h).trans stepRaises_memoryOutOfRange_iff,
    (step_faulted_iff h).trans stepRaises_unimplementedOpcode_iff,
    (step_faulted_iff h).trans stepRaises_stackOverflow_iff, (step_faulted_iff h).trans stepRaises_stackUnderflow_iff⟩

/-! ## The cycle -/

/-- Settles O9: `fetch_some` composes the two bytes, and above 4094 the step is the failed fetch. -/
theorem fetchIsBigEndianOrFaults : Obligations.FetchIsBigEndianOrFaults :=
  fun _ hs => ⟨fun hpc => ⟨_, fetch_some.2 ⟨hpc, rfl⟩, composeOpcode_toNat _ _⟩,
    fun hpc => step_of_fetch_none hs (fetch_none.2 hpc)⟩

variable {d : Bool} {b0 b1 : Byte} {e : DecodeError}

theorem decodeOpcode_of_decode_pair (h : decode d [b0, b1] = .ok (i, [])) :
    decodeOpcode d (composeOpcode b0 b1) = .ok i := by
  cases hd : decodeOpcode d (composeOpcode b0 b1) with
  | ok j => simpa [decode, hd] using h
  | error e => simp [decode, hd] at h

theorem decodeOpcode_error_of_decode_pair (h : decode d [b0, b1] = .error e) :
    decodeOpcode d (composeOpcode b0 b1) = .error e := by
  cases hd : decodeOpcode d (composeOpcode b0 b1) with
  | ok j => simp [decode, hd] at h
  | error e' => simpa [decode, hd] using h

/-- The only error of an `if` that guards one decoded instruction. -/
theorem guarded_error {c : Prop} [Decidable c] {e' : DecodeError}
    (h : (if c then .ok i else .error e' : Except DecodeError Instr) = .error e) : e = e' := by
  split at h
  next => cases h
  next => exact (Except.error.inj h).symm

theorem eq_of_decodeGroup0_error (h : decodeGroup0 op = .error e) : e = .unimplemented op := by
  unfold decodeGroup0 at h
  split at h
  next => cases h
  next => exact guarded_error h

theorem eq_of_decodeGroup8_error (h : decodeGroup8 op = .error e) : e = .unimplemented op := by
  unfold decodeGroup8 at h
  iterate 8
    split at h
    · cases h
  exact guarded_error h

/-- The decoder refuses no opcode but the one it was given (30_encoding.md R104). -/
theorem eq_of_decodeOpcode_error (h : decodeOpcode d op = .error e) : e = .unimplemented op := by
  rcases nibble_cases (fieldGroup op) with (hg | hg | hg | hg | hg | hg | hg | hg) | hg | hg | hg | hg | hg | hg | hg | hg
  · exact eq_of_decodeGroup0_error ((decodeOpcode_group0 hg).symm.trans h)
  · cases (decodeOpcode_group1 hg).symm.trans h
  · cases (decodeOpcode_group2 hg).symm.trans h
  · cases (decodeOpcode_group3 hg).symm.trans h
  · cases (decodeOpcode_group4 hg).symm.trans h
  · exact guarded_error ((decodeOpcode_group5 hg).symm.trans h)
  · cases (decodeOpcode_group6 hg).symm.trans h
  · cases (decodeOpcode_group7 hg).symm.trans h
  · exact eq_of_decodeGroup8_error ((decodeOpcode_group8 hg).symm.trans h)
  · exact guarded_error ((decodeOpcode_group9 hg).symm.trans h)
  · cases (decodeOpcode_groupA hg).symm.trans h
  · cases (decodeOpcode_groupB hg).symm.trans h
  · cases (decodeOpcode_groupC hg).symm.trans h
  · exact guarded_error ((decodeOpcode_groupD hg).symm.trans h)
  · exact (Except.error.inj ((decodeOpcode_groupE hg).symm.trans h)).symm
  · exact (Except.error.inj ((decodeOpcode_groupF hg).symm.trans h)).symm

/-- Settles O10: with `pc` at most 4094 the two bytes are what is fetched, and the decoder refuses no opcode but the
fetched one. -/
theorem stepRunsDecodedInstruction : Obligations.StepRunsDecodedInstruction := by
  intro s hs hpc
  have hf := fetch_some.2 ⟨hpc, rfl⟩
  refine ⟨fun i hi => step_of_decode hs hf (decodeOpcode_of_decode_pair hi), fun op hop => ?_⟩
  have hd := decodeOpcode_error_of_decode_pair hop
  obtain rfl := DecodeError.unimplemented.inj (eq_of_decodeOpcode_error hd)
  exact step_of_decode_error hs hf hd

/-- Settles O11: this is `step_of_faulted`. -/
theorem faultedMachineNeverSteps : Obligations.FaultedMachineNeverSteps := fun _ _ hs => step_of_faulted hs

/-! ## Every step has a next state -/

theorem execRet_next (s : State) : ∃ t, execRet s = .next t := by
  unfold execRet
  split <;> exact ⟨_, rfl⟩

theorem execCall_next (nnn : Addr12) (s : State) : ∃ t, execCall nnn s = .next t := by
  unfold execCall
  split <;> exact ⟨_, rfl⟩

theorem execDrw_next (x y : RegIdx) (n : Nibble) (s : State) : ∃ t, execDrw x y n s = .next t := by
  unfold execDrw
  split <;> exact ⟨_, rfl⟩

theorem exec_next (i : Instr) (s : State) : ∃ t, exec i s = .next t := by
  cases i
  case ret => exact execRet_next s
  case call nnn => exact execCall_next nnn s
  case drw x y n => exact execDrw_next x y n s
  all_goals exact ⟨_, rfl⟩

theorem step_next (hs : s.status = .running) : ∃ t, step s = .next t := by
  cases hf : fetch s with
  | none => exact ⟨_, step_of_fetch_none hs hf⟩
  | some op =>
    cases hd : decodeOpcode s.drawOpcode op with
    | error e => exact ⟨_, step_of_decode_error hs hf hd⟩
    | ok i => exact step_of_decode hs hf hd ▸ exec_next i (advance s)

/-- Settles O12: a failed fetch, a refused opcode and every instruction answer a next state. -/
theorem runningMachineAlwaysSteps : Obligations.RunningMachineAlwaysSteps := ⟨fun _ hs => step_next hs, exec_next⟩

/-! ## Reset and the first step (70_reset_and_hazards.md R310, R314) -/

/-- Settles O1: the registers, slots and cells are read from constant vectors, and memory is empty. -/
theorem resetLeavesEverythingZero : Obligations.ResetLeavesEverythingZero :=
  ⟨fun r => Vector.getElem_replicate r.isLt, rfl, rfl, rfl, fun k => Vector.getElem_replicate k.isLt, Mem.read_nil,
    fun r c => by simp [Grid.cell], rfl, rfl⟩

/-- Settles O2: the host's reset is the reset state but for the parameter and the position in the random stream. -/
theorem hostResetLeavesFaulted : Obligations.HostResetLeavesFaulted :=
  fun _ => ⟨rfl, rfl, rfl, rfl, rfl, rfl, rfl, rfl, rfl, rfl⟩

/-- Settles O28: the signal is the outcome (`signalHalt`). -/
theorem haltOnlySignals : Obligations.HaltOnlySignals := fun _ => rfl

/-- Settles O3: the empty memory reads as `HALT` at address 0, which runs on the advanced state. -/
theorem firstStepAfterResetHalts : Obligations.FirstStepAfterResetHalts :=
  (step_of_decode (op := 0x0000) reset_status rfl (decodeOpcode_group0 rfl)).trans (haltOnlySignals (advance State.reset))

end Sys2Proof.Machine

/-! # What single instructions change -/

namespace Sys2Proof.Machine

variable {i : Instr} {s t : State}

/-- Settles O21: the bound is that of the type of `sp`, and `Effect.stack_cases` names the two movers. -/
theorem onlyCallAndRetMoveTheStack : Obligations.OnlyCallAndRetMoveTheStack :=
  ⟨rfl, fun s => Nat.le_of_lt_succ s.sp.isLt, fun _ _ _ h => (effect_of_exec h).stack_cases⟩

/-- Settles O22: this is `Effect.readV_of_ne`. -/
theorem onlyDestinationAndFlagChange : Obligations.OnlyDestinationAndFlagChange :=
  fun _ _ _ _ h hr => (effect_of_exec h).readV_of_ne hr

/-- Settles O23: what is in `VF` is a flag's byte (`Effect.flag_byte`), and that is 0 or 1. -/
theorem flagWriteIsZeroOrOne : Obligations.FlagWriteIsZeroOrOne := by
  intro i s t _ h ht hflag
  obtain ⟨f, hf⟩ := (effect_of_exec h).flag_byte ht hflag
  cases f
  · exact .inl hf
  · exact .inr hf

/-- Settles O24: by `Effect.index_cases`, with the zero-extended address as a number. -/
theorem onlyLdIWritesIndex : Obligations.OnlyLdIWritesIndex := by
  intro i s t h hI
  obtain ⟨nnn, hi, ht⟩ := (effect_of_exec h).index_cases.resolve_left hI
  exact ⟨nnn, hi, ht ▸ absAddr_toNat nnn⟩

theorem eq_rnd_or_ne (i : Instr) : (∃ x nn, i = .rnd x nn) ∨ ∀ x nn, i ≠ .rnd x nn :=
  or_iff_not_imp_left.2 fun h x nn hi => h ⟨x, nn, hi⟩

/-- Settles O27: RND consumes its byte before the register write, and no other effect moves the position. -/
theorem onlyRndConsumesRandomBytes : Obligations.OnlyRndConsumesRandomBytes := by
  intro i s t h
  obtain ⟨x, nn, rfl⟩ | hi := eq_rnd_or_ne i
  · cases (exec_rnd s x nn).symm.trans h
    exact .inl ⟨⟨x, nn, rfl⟩, (writeV_rndIndex _ x _).trans (consumeRnd_rndIndex s)⟩
  · exact .inr ⟨hi, (effect_of_exec h).rndIndex_eq hi⟩

/-! ## RET, and CALL followed by RET (40_cycle_and_control.md R127, R129) -/

/-- Settles O29: with a top slot the answer is `returned`, which writes `sp` and `pc` only. -/
theorem returnPopsOrUnderflows : Obligations.ReturnPopsOrUnderflows :=
  fun _ => ⟨fun _ hk => ⟨_, exec_ret_of_top hk, rfl, rfl, rfl, fun _ _ => rfl, rfl, fun _ => rfl, ⟨rfl, rfl⟩,
    ⟨rfl, rfl, rfl⟩, rfl⟩, exec_ret_of_empty⟩

/-- Settles O33: the slot CALL fills with the advanced `pc` is the top one when RET runs. -/
theorem returnUndoesCall : Obligations.ReturnUndoesCall := by
  intro s nnn hroom
  obtain ⟨k, hk⟩ := (sp_full_or_free s).resolve_left hroom.ne
  refine ⟨_, exec_call_of_free hk nnn, fun p => ⟨_, exec_ret_of_top (s := setPc (called nnn k s) p) rfl, ?_, ?_⟩⟩
  · exact Vector.getElem_set_self k.isLt
  · exact Fin.ext hk.symm

/-! ## The five flag-writing instructions of group 8 (43_alu.md R191, R196 to R200) -/

variable (s) (x y : RegIdx)

theorem exec_addReg : exec (.addReg x y) s =
    .next (writeResultThenFlag s x (readV s x + readV s y) (carryFlag (readV s x) (readV s y))) := rfl

theorem exec_sub : exec (.sub x y) s =
    .next (writeResultThenFlag s x (readV s x - readV s y) (borrowFlag (readV s x) (readV s y))) := rfl

theorem exec_shr : exec (.shr x y) s =
    .next (writeResultThenFlag s x (readV s y >>> 1) (shiftedOutRight (readV s y))) := rfl

theorem exec_subn : exec (.subn x y) s =
    .next (writeResultThenFlag s x (readV s y - readV s x) (noBorrowFlag (readV s x) (readV s y))) := rfl

theorem exec_shl : exec (.shl x y) s =
    .next (writeResultThenFlag s x (readV s y <<< 1) (shiftedOutLeft (readV s y))) := rfl

theorem flagByte_toNat (b : Bool) : (flagByte b).toNat = if b then 1 else 0 := by
  cases b <;> rfl

theorem flagByte_decide_toNat (p : Prop) [Decidable p] : (flagByte (decide p)).toNat = if p then 1 else 0 := by
  simp only [flagByte_toNat, decide_eq_true_eq]

variable {s x}

/-- What an instruction that writes a result and then a flag does, when `n` is the result and `f` the flag as a number. -/
theorem exec_result_flag {result flag : Byte} {n f : Nat}
    (hexec : exec i s = .next (writeResultThenFlag s x result flag)) (hflag : flag.toNat = f)
    (hresult : result.toNat = n) :
    ∃ t, exec i s = .next t ∧ OnlyRegsChange [x, 15] s t ∧ (readV t 15).toNat = f ∧
      (x ≠ 15 → (readV t x).toNat = n) := by
  refine ⟨_, hexec, writeResultThenFlag_frame s x result flag, ?_, fun hx => ?_⟩
  · exact (congrArg BitVec.toNat (readV_writeResultThenFlag_vf s x result flag)).trans hflag
  · exact (congrArg BitVec.toNat (readV_writeResultThenFlag_dest s result flag hx)).trans hresult

/-- The difference modulo 256 without a negative number. -/
theorem sub_toNat (a b : Byte) : (a - b).toNat = (a.toNat + 256 - b.toNat) % 256 := by
  have hb := b.isLt
  rw [BitVec.toNat_sub]
  omega

theorem noBorrowFlag_toNat (a b : Byte) : (noBorrowFlag a b).toNat = if b.toNat < a.toNat then 0 else 1 := by
  unfold noBorrowFlag
  by_cases h : b.toNat < a.toNat <;> simp [h, flagByte_toNat]

theorem shiftedOutRight_toNat (b : Byte) : (shiftedOutRight b).toNat = b.toNat % 2 := by
  rw [shiftedOutRight, BitVec.getLsbD, Nat.testBit_zero, flagByte_decide_toNat]
  split <;> omega

theorem shiftedOutLeft_toNat (b : Byte) : (shiftedOutLeft b).toNat = b.toNat / 128 := by
  have hb := b.isLt
  rw [shiftedOutLeft, BitVec.getLsbD, Nat.testBit_eq_decide_div_mod_eq, flagByte_decide_toNat]
  split <;> omega

theorem double_toNat (b : Byte) : (b <<< 1).toNat = b.toNat * 2 % 256 := by
  rw [BitVec.toNat_shiftLeft, Nat.shiftLeft_eq, Nat.pow_one]

/-- Settles O40: the flag is 1 exactly when the unbounded sum exceeds 255. -/
theorem addSetsCarry : Obligations.AddSetsCarry := fun s x y =>
  exec_result_flag (exec_addReg s x y) (flagByte_decide_toNat _) (BitVec.toNat_add _ _)

/-- Settles O41: the flag is 1 exactly on a borrow. -/
theorem subSetsBorrow : Obligations.SubSetsBorrow := fun s x y =>
  exec_result_flag (exec_sub s x y) (flagByte_decide_toNat _) (sub_toNat _ _)

/-- Settles O42: the bit shifted out is the remainder of the halving. -/
theorem shiftRightTakesVy : Obligations.ShiftRightTakesVy := fun s x y =>
  exec_result_flag (exec_shr s x y) (shiftedOutRight_toNat _) (BitVec.toNat_ushiftRight _ 1)

/-- Settles O43: the operands of SUB exchanged, and the flag inverted. -/
theorem subnSetsNoBorrow : Obligations.SubnSetsNoBorrow := fun s x y =>
  exec_result_flag (exec_subn s x y) (noBorrowFlag_toNat _ _) (sub_toNat _ _)

/-- Settles O44: the bit shifted out is the quotient by 128. -/
theorem shiftLeftTakesVy : Obligations.ShiftLeftTakesVy := fun s x y =>
  exec_result_flag (exec_shl s x y) (shiftedOutLeft_toNat _) (double_toNat _)

/-! ## DRW (45_display.md R250, R251) -/

theorem exec_drw_of_inside {y : RegIdx} {n : Nibble} {bytes : List Byte}
    (h : memSlice s s.I.toNat n.toNat = some bytes) :
    exec (.drw x y n) s =
      .next (writeV (draw (readV s x).toNat (readV s y).toNat bytes s).2 vf
        (collisionFlag (draw (readV s x).toNat (readV s y).toNat bytes s).1)) := by
  simp only [exec, execDrw, h]

/-- The bytes of a slice, one by one. -/
theorem memSlice_bytes {addr n : Nat} {bytes : List Byte} (h : memSlice s addr n = some bytes) :
    bytes.length = n ∧ ∀ j (h : j < bytes.length), bytes[j] = memByte s (addr + j) := by
  obtain ⟨-, rfl⟩ := memSlice_eq_some.1 h
  simp

theorem exists_memSlice {n : Nibble} (h : n = 0 ∨ s.I.toNat + n.toNat - 1 ≤ 4095) :
    ∃ bytes, memSlice s s.I.toNat n.toNat = some bytes := by
  refine Option.ne_none_iff_exists'.1 fun hnone => ?_
  obtain ⟨hn, hout⟩ := (memSlice_none_iff n).1 hnone
  exact absurd (h.resolve_left hn) (Nat.not_le.2 hout)

/-- Settles O46: inside memory the slice is read, drawn and its collision written to `VF`; outside, the handler raises its
condition. -/
theorem drawInstructionDrawsOrFaults : Obligations.DrawInstructionDrawsOrFaults := by
  refine fun s x y n => ⟨fun hin => ?_, fun hout => exec_drw_of_outside ((memSlice_none_iff n).2 hout)⟩
  obtain ⟨bytes, hslice⟩ := exists_memSlice hin
  obtain ⟨hlen, hbytes⟩ := memSlice_bytes hslice
  obtain ⟨hregs, hI, hpc, hstack, hmem, -, hcontrol, hrnd⟩ :=
    writeV_frame (draw (readV s x).toNat (readV s y).toNat bytes s).2 vf
      (collisionFlag (draw (readV s x).toNat (readV s y).toNat bytes s).1)
  refine ⟨_, exec_drw_of_inside hslice, ⟨bytes, hlen, hbytes, rfl, ?_⟩, rfl, hregs, hI, hpc, hstack, hmem, hcontrol,
    hrnd⟩
  exact (congrArg BitVec.toNat (readV_writeV_same _ vf _)).trans (flagByte_toNat _)

end Sys2Proof.Machine

/-! # The host's transactions (00_scope.md R12, 70_reset_and_hazards.md R316) -/

namespace Sys2Proof.Machine

variable {s : State}

/-! ## One byte of memory -/

theorem hostWriteMem_of_lt {addr : Nat} (b : Byte) (h : addr < memSize) :
    hostWriteMem addr b s = some { s with mem := Mem.write s.mem addr b } := if_pos h

/-- Settles O55: by the laws of `Mem.write`. -/
theorem hostWriteSetsOneByte : Obligations.HostWriteSetsOneByte := by
  refine fun s addr b hm => ⟨fun hin => ?_, fun hout => if_neg (Nat.not_lt.2 hout)⟩
  have hlt : addr < memSize := Nat.lt_succ_of_le hin
  exact ⟨_, hostWriteMem_of_lt b hlt, Mem.read_write_same addr b hm, fun _ => Mem.read_write_other b,
    Mem.wf_write b hm hlt, rfl⟩

/-! ## The stack pre-seed -/

theorem hostSeedStack_of_le {values : List Word16} (h : values.length ≤ 16) :
    hostSeedStack values s =
      some { s with stack := fillStack 0 values s.stack, sp := ⟨values.length, Nat.lt_succ_of_le h⟩ } := dif_pos h

/-- Entries filled into ascending slots leave every other slot as it was. -/
theorem fillStack_outside {values : List Word16} {stack : Vector Word16 16} {k j : Nat}
    (h : j < k ∨ k + values.length ≤ j) : (fillStack k values stack)[j]? = stack[j]? := by
  induction values generalizing k stack with
  | nil => rfl
  | cons v rest ih =>
    rw [List.length_cons] at h
    calc (fillStack (k + 1) rest (stack.setIfInBounds k v))[j]?
        = (stack.setIfInBounds k v)[j]? := ih (by omega)
      _ = stack[j]? := Vector.getElem?_setIfInBounds_ne (by omega)

/-- Entry `j` of the values stands at the `j`-th slot. -/
theorem fillStack_at {values : List Word16} {stack : Vector Word16 16} {k j : Nat} (hfit : k + values.length ≤ 16)
    (hj : j < values.length) : (fillStack k values stack)[k + j]? = some values[j] := by
  induction values generalizing k j stack with
  | nil => exact absurd hj (Nat.not_lt_zero j)
  | cons v rest ih =>
    rw [List.length_cons] at hfit hj
    cases j with
    | zero =>
      have hk : k < 16 := by omega
      exact (fillStack_outside (.inl (Nat.lt_succ_self k))).trans (Vector.getElem?_setIfInBounds_self_of_lt hk)
    | succ j =>
      have hrest := ih (stack := stack.setIfInBounds k v) (show k + 1 + rest.length ≤ 16 by omega)
        (Nat.lt_of_succ_lt_succ hj)
      rwa [Nat.add_right_comm] at hrest

theorem fillStack_zero_at {values : List Word16} {stack : Vector Word16 16} {j : Nat} (hfit : values.length ≤ 16)
    (hj : j < values.length) : (fillStack 0 values stack)[j]? = some values[j] := by
  have h := fillStack_at (stack := stack) (k := 0) (by rwa [Nat.zero_add]) hj
  rwa [Nat.zero_add] at h

theorem get_eq_of_getElem? {stack : Vector Word16 16} {k : Fin 16} {v : Word16} (h : stack[k.val]? = some v) :
    stack.get k = v :=
  (Vector.getElem?_eq_some_iff.1 h).2

theorem getElem?_get (stack : Vector Word16 16) (k : Fin 16) : stack[k.val]? = some (stack.get k) :=
  Vector.getElem?_eq_getElem k.isLt

/-- Settles O57: the seed is `fillStack` from slot 0, whose slots are the entries and, above them, the old ones. -/
theorem stackSeedIsBounded : Obligations.StackSeedIsBounded := by
  refine fun s values => ⟨fun hfit => ?_, fun hover => dif_neg (Nat.not_le.2 hover)⟩
  refine ⟨_, hostSeedStack_of_le hfit, rfl, fun k hk => ?_, fun k hk => get_eq_of_getElem? ?_, rfl⟩
  · exact Vector.getElem?_toList.trans (fillStack_zero_at hfit hk)
  · exact (fillStack_outside (.inr ((Nat.zero_add _).trans_le hk))).trans (getElem?_get s.stack k)

/-! ## The invariant (10_state.md R41) -/

theorem hostSeedStack_inv {values : List Word16} {t : State} (hs : Inv s) (hvalues : ∀ v ∈ values, v.toNat ≤ 4096)
    (h : hostSeedStack values s = some t) : Inv t := by
  obtain ⟨hmem, hpc, -, hagree⟩ := hs
  obtain ⟨hfit, rfl⟩ := hostSeedStack_some h
  refine ⟨hmem, hpc, fun k hk => ?_, hagree⟩
  have hentry : (fillStack 0 values s.stack).get k = values[k.val] := get_eq_of_getElem? (fillStack_zero_at hfit hk)
  exact hentry ▸ hvalues _ (List.getElem_mem hk)

/-- Settles O19: a memory write keeps the canonical form, a seed is within its bounds, reset answers the invariant anew,
and no other transaction writes what the invariant is about. -/
theorem hostTransactionsKeepInvariant : Obligations.HostTransactionsKeepInvariant := by
  intro s hs
  obtain ⟨hmem, hpc, hstack, hagree⟩ := hs
  refine ⟨fun addr b t h => ?_, fun base image t h => ?_, fun x b => ?_, fun v => ?_, fun v hv => ?_,
    fun values t hvalues h => ?_, fun x0 y0 bytes => ?_, ?_, ?_⟩
  · obtain ⟨hlt, rfl⟩ := hostWriteMem_some h
    exact ⟨Mem.wf_write b hmem hlt, hpc, hstack, hagree⟩
  · obtain ⟨hfit, rfl⟩ := loadImage_some h
    exact ⟨Mem.wf_writeBytes hmem hfit, hpc, hstack, hagree⟩
  · exact ⟨hmem, hpc, hstack, hagree⟩
  · exact ⟨hmem, hpc, hstack, hagree⟩
  · exact ⟨hmem, hv, hstack, hagree⟩
  · exact hostSeedStack_inv ⟨hmem, hpc, hstack, hagree⟩ hvalues h
  · exact ⟨hmem, hpc, hstack, hagree⟩
  · exact ⟨hmem, hpc, hstack, hagree⟩
  · exact resetMeetsInvariant

/-! ## The reference run (70_reset_and_hazards.md R320) -/

/-- How the first step of a run decides it, whatever budget is left: no step is enabled, a fault ends the run, a halt ends
it, or the run goes on from a running state. -/
theorem run_succ_cases (s : State) :
    (∃ kind, s.status = .faulted kind ∧ ∀ k, run (k + 1) s = .notEnabled s) ∨
      (∃ u kind, u.status = .faulted kind ∧ ∀ k, run (k + 1) s = .faulted kind u) ∨
      (∃ u, u.status = .running ∧ u.outcome = some .haltSignal ∧ ∀ k, run (k + 1) s = .halted u) ∨
      (∃ u, u.status = .running ∧ ∀ k, run (k + 1) s = run k u) := by
  cases hs : s.status with
  | faulted kind => exact .inl ⟨kind, rfl, fun k => by simp only [run, step_of_faulted hs]⟩
  | running =>
    obtain ⟨u, hu⟩ := step_next hs
    have hrun : ∀ k, run (k + 1) s = afterStep u (run k u) := fun k => by simp only [run, hu]
    obtain ⟨info, hf, ho⟩ | ⟨hr, -, ho⟩ | ⟨hr, -, ho⟩ := stepTellsItsOutcome s u hu
    · exact .inr (.inl ⟨u, kindOf info, hf, fun k => by simp only [hrun k, afterStep, ho]⟩)
    · exact .inr (.inr (.inl ⟨u, hr, ho, fun k => by simp only [hrun k, afterStep, ho]⟩))
    · exact .inr (.inr (.inr ⟨u, hr, fun k => by simp only [hrun k, afterStep, ho]⟩))

/-- A run that did not spend its budget ends the same under any larger one. -/
theorem run_larger_budget {r : RunResult} {k : Nat} (h : run k s = r) (hr : ∀ u, r ≠ .budgetSpent u) (j : Nat) :
    run (k + j) s = r := by
  induction k generalizing s with
  | zero => exact absurd h.symm (hr s)
  | succ k ih =>
    rw [Nat.add_right_comm]
    obtain ⟨_, -, hrun⟩ | ⟨_, _, -, hrun⟩ | ⟨_, -, -, hrun⟩ | ⟨u, -, hrun⟩ := run_succ_cases s
    · exact (hrun (k + j)).trans ((hrun k).symm.trans h)
    · exact (hrun (k + j)).trans ((hrun k).symm.trans h)
    · exact (hrun (k + j)).trans ((hrun k).symm.trans h)
    · exact (hrun (k + j)).trans (ih ((hrun k).symm.trans h))

/-- What a run's result says of the state it ended in; `notEnabled` says it of the state it began in. -/
def ResultAgrees (s : State) : RunResult → Prop
  | .halted t => t.status = .running ∧ t.outcome = some .haltSignal
  | .faulted kind t => t.status = .faulted kind
  | .budgetSpent _ => True
  | .notEnabled _ => ∃ kind, s.status = .faulted kind

/-- A result reached from a running state is no `notEnabled`, so it says the same of an earlier state. -/
theorem ResultAgrees.of_running {u : State} {r : RunResult} (hu : u.status = .running) (h : ResultAgrees u r) :
    ResultAgrees s r := by
  cases r with
  | notEnabled t =>
    obtain ⟨kind, hk⟩ := h
    cases hu.symm.trans hk
  | halted | faulted | budgetSpent => exact h

theorem run_resultAgrees (k : Nat) (s : State) : ResultAgrees s (run k s) := by
  induction k generalizing s with
  | zero => exact trivial
  | succ k ih =>
    obtain ⟨kind, hs, hrun⟩ | ⟨u, kind, hu, hrun⟩ | ⟨u, hu, ho, hrun⟩ | ⟨u, hu, hrun⟩ := run_succ_cases s
    · rw [hrun k]; exact ⟨kind, hs⟩
    · rw [hrun k]; exact hu
    · rw [hrun k]; exact ⟨hu, ho⟩
    · rw [hrun k]; exact (ih u).of_running hu

/-- Settles O58: the end states by `run_resultAgrees`, the larger budget by `run_larger_budget`. -/
theorem runEndsAtHaltOrFault : Obligations.RunEndsAtHaltOrFault := by
  intro k s t
  have hagrees := run_resultAgrees k s
  refine ⟨fun h => ?_, fun kind h => ?_, fun h => ?_⟩
  · rw [h] at hagrees
    obtain ⟨hstatus, hout⟩ := hagrees
    exact ⟨hstatus, hout, run_larger_budget h nofun⟩
  · rw [h] at hagrees
    exact ⟨hagrees, run_larger_budget h nofun⟩
  · rw [h] at hagrees
    exact hagrees

end Sys2Proof.Machine

/-! # What a sprite does to the grid (45_display.md R231 to R236)

A draw hits a list of cells one after another, the cells of the sprite's 1 bits. The list has each covered cell, and each
once when the sprite has at most 32 rows; a cell ends toggled when it stands in the list an odd number of times. -/

namespace Sys2Proof.Machine

/-- A cell by its row and column. -/
abbrev CellIdx := Fin 32 × Fin 64

/-- One hit: record a collision if the cell is set at that moment, then toggle it (R231). -/
def hit (acc : Grid × Bool) (p : CellIdx) : Grid × Bool := (acc.1.toggle p.1 p.2, acc.2 || acc.1.cell p.1 p.2)

/-- The cells of the 1 bits of one sprite byte on row coordinate `y`, in ascending column order (R231 to R233). -/
def rowCells (x0 y : Nat) (byte : Byte) : List CellIdx :=
  ((List.range 8).filter fun i => byte.getLsbD (7 - i)).map fun i => (wrapRow y, wrapCol (x0 + i))

/-- The cells of a sprite's 1 bits, in the order they are drawn (R235). -/
def spriteCells (x0 : Nat) : Nat → List Byte → List CellIdx
  | _, [] => []
  | y, byte :: rest => rowCells x0 y byte ++ spriteCells x0 (y + 1) rest

variable {g : Grid} {p : CellIdx} {cells : List CellIdx} {x0 y : Nat} {byte : Byte} {bytes : List Byte}

/-! ## A draw hits the cells of the sprite -/

theorem drawByte_eq (acc : Grid × Bool) : drawByte x0 y byte acc = (rowCells x0 y byte).foldl hit acc := by
  rw [rowCells, List.foldl_map, List.foldl_filter]
  rfl

theorem drawRows_eq (acc : Grid × Bool) : drawRows x0 y bytes acc = (spriteCells x0 y bytes).foldl hit acc := by
  induction bytes generalizing y acc with
  | nil => rfl
  | cons byte rest ih => rw [drawRows_cons, ih, drawByte_eq, spriteCells, List.foldl_append]

theorem drawSprite_eq (g : Grid) : drawSprite x0 y bytes g = (spriteCells x0 y bytes).foldl hit (g, false) :=
  drawRows_eq (g, false)

/-! ## Hitting a list of cells -/

/-- A cell ends toggled when it was hit an odd number of times. -/
theorem cell_foldl_hit (acc : Grid × Bool) :
    (cells.foldl hit acc).1.cell p.1 p.2 = (acc.1.cell p.1 p.2 ^^ (cells.count p).bodd) := by
  induction cells generalizing acc with
  | nil => simp
  | cons q rest ih =>
    rw [List.foldl_cons, ih, hit, Grid.cell_toggle, List.count_cons]
    by_cases hq : p = q
    · subst hq
      simp
    · have hne : ¬ (p.1 = q.1 ∧ p.2 = q.2) := fun h => hq (Prod.ext h.1 h.2)
      have hne' : (q == p) = false := beq_eq_false_iff_ne.2 (Ne.symm hq)
      simp [hne, hne']

/-- With no cell twice, each cell is as before when it is hit, so the collision is read off the grid before. -/
theorem collision_foldl_hit (hnodup : cells.Nodup) (acc : Grid × Bool) :
    (cells.foldl hit acc).2 = true ↔ acc.2 = true ∨ ∃ p ∈ cells, acc.1.cell p.1 p.2 = true := by
  induction cells generalizing acc with
  | nil => simp
  | cons q rest ih =>
    obtain ⟨hq, hrest⟩ := List.nodup_cons.1 hnodup
    have hkeep : ∀ p ∈ rest, (hit acc q).1.cell p.1 p.2 = acc.1.cell p.1 p.2 := by
      intro p hp
      have hne : ¬ (p.1 = q.1 ∧ p.2 = q.2) := fun h => hq (Prod.ext h.1 h.2 ▸ hp)
      rw [hit, Grid.cell_toggle, if_neg hne]
    have hlater : (∃ p ∈ rest, (hit acc q).1.cell p.1 p.2 = true) ↔ ∃ p ∈ rest, acc.1.cell p.1 p.2 = true :=
      exists_congr fun p => and_congr_right fun hp => by rw [hkeep p hp]
    rw [List.foldl_cons, ih hrest, hlater]
    simp [hit, or_assoc]

/-- Hitting the same cells again restores the grid, whatever the collision told: every count is doubled. -/
theorem foldl_hit_twice (g : Grid) (b b' : Bool) :
    (cells.foldl hit ((cells.foldl hit (g, b)).1, b')).1 = g := by
  refine Grid.ext_cell fun r c => ?_
  have hcell := fun acc => cell_foldl_hit (cells := cells) (p := (r, c)) acc
  rw [hcell, hcell, Bool.xor_assoc, Bool.xor_self, Bool.xor_false]

/-! ## The cells of a sprite are the covered cells -/

theorem mem_rowCells : p ∈ rowCells x0 y byte ↔
    ∃ i < 8, byte.getLsbD (7 - i) = true ∧ y % 32 = p.1.val ∧ (x0 + i) % 64 = p.2.val := by
  simp [rowCells, Prod.ext_iff, Fin.ext_iff, wrapRow_val, wrapCol_val, and_assoc]

/-- The sprite's first row, and the sprite of the others one row lower. -/
theorem spriteCovers_cons : spriteCovers x0 y (byte :: bytes) p.1 p.2 ↔
    p ∈ rowCells x0 y byte ∨ spriteCovers x0 (y + 1) bytes p.1 p.2 := by
  rw [mem_rowCells]
  constructor
  · rintro ⟨j, i, hi, ⟨b, hb, hbit⟩, hr, hc⟩
    cases j with
    | zero =>
      obtain rfl := Option.some.inj hb
      exact .inl ⟨i, hi, hbit, hr, hc⟩
    | succ j =>
      have hr' : (y + 1 + j) % 32 = p.1.val := by omega
      exact .inr ⟨j, i, hi, ⟨b, hb, hbit⟩, hr', hc⟩
  · rintro (⟨i, hi, hbit, hr, hc⟩ | ⟨j, i, hi, ⟨b, hb, hbit⟩, hr, hc⟩)
    · exact ⟨0, i, hi, ⟨byte, rfl, hbit⟩, hr, hc⟩
    · have hr' : (y + (j + 1)) % 32 = p.1.val := by omega
      exact ⟨j + 1, i, hi, ⟨b, hb, hbit⟩, hr', hc⟩

theorem mem_spriteCells : p ∈ spriteCells x0 y bytes ↔ spriteCovers x0 y bytes p.1 p.2 := by
  induction bytes generalizing y with
  | nil => simp [spriteCells, spriteCovers]
  | cons byte rest ih => rw [spriteCells, List.mem_append, ih, spriteCovers_cons]

/-! ## At most 32 rows: no cell twice -/

/-- The eight columns of a row are distinct modulo 64. -/
theorem rowCells_nodup : (rowCells x0 y byte).Nodup := by
  refine List.Nodup.map_on (fun i hi j hj hij => ?_) (List.nodup_range.filter _)
  have hi' : i < 8 := List.mem_range.1 (List.mem_of_mem_filter hi)
  have hj' : j < 8 := List.mem_range.1 (List.mem_of_mem_filter hj)
  have hcol : (x0 + i) % 64 = (x0 + j) % 64 := congrArg (fun p : CellIdx => p.2.val) hij
  omega

/-- The rows of a sprite of at most 32 bytes are distinct modulo 32. -/
theorem spriteCells_nodup (h : bytes.length ≤ 32) : (spriteCells x0 y bytes).Nodup := by
  induction bytes generalizing y with
  | nil => exact List.nodup_nil
  | cons byte rest ih =>
    rw [List.length_cons] at h
    refine List.nodup_append'.2 ⟨rowCells_nodup, ih (by omega), fun p hfirst hrest => ?_⟩
    obtain ⟨i, -, -, hr, -⟩ := mem_rowCells.1 hfirst
    obtain ⟨j, i', -, ⟨b, hb, -⟩, hr', -⟩ := mem_spriteCells.1 hrest
    have hj : j < rest.length := (List.getElem?_eq_some_iff.1 hb).1
    omega

/-- With no cell twice, exactly the hit cells are toggled. -/
theorem cell_drawSprite (h : bytes.length ≤ 32) (r : Fin 32) (c : Fin 64) [Decidable (spriteCovers x0 y bytes r c)] :
    (drawSprite x0 y bytes g).1.cell r c = if spriteCovers x0 y bytes r c then !g.cell r c else g.cell r c := by
  rw [drawSprite_eq, cell_foldl_hit (p := (r, c)), (spriteCells_nodup h).count]
  simp only [mem_spriteCells]
  split <;> simp

theorem collision_drawSprite (h : bytes.length ≤ 32) :
    (drawSprite x0 y bytes g).2 = true ↔ ∃ r c, spriteCovers x0 y bytes r c ∧ g.cell r c = true := by
  rw [drawSprite_eq, collision_foldl_hit (spriteCells_nodup h)]
  simp [mem_spriteCells]

/-! ## The statements -/

/-- Settles O47: the sprite's cells are the covered ones, each once. -/
theorem drawEqualsParallelForm : Obligations.DrawEqualsParallelForm := by
  classical
  refine fun g x0 y0 bytes h => ⟨fun r c hcov => ?_, fun r c hcov => ?_, collision_drawSprite h⟩
  · rw [cell_drawSprite h, if_pos hcov]
  · rw [cell_drawSprite h, if_neg hcov]

/-- Settles O48: two equal draws hit every cell twice as often, and the second collides on the cells the
first turned on. -/
theorem drawTwiceRestoresGrid : Obligations.DrawTwiceRestoresGrid := by
  refine fun g x0 y0 bytes => ⟨?_, fun h => ?_⟩
  · rw [drawSprite_eq, drawSprite_eq]
    exact foldl_hit_twice g false false
  · rw [collision_drawSprite h]
    refine exists_congr fun r => exists_congr fun c => and_congr_right fun hcov => ?_
    rw [(drawEqualsParallelForm g x0 y0 bytes h).1 r c hcov, Bool.not_eq_true']

theorem rowCells_zero : rowCells x0 y 0 = [] := by
  simp [rowCells]

theorem spriteCells_zero (k : Nat) : spriteCells x0 y (List.replicate k 0) = [] := by
  induction k generalizing y with
  | zero => rfl
  | succ k ih => rw [List.replicate_succ, spriteCells, rowCells_zero, ih, List.nil_append]

/-- Settles O50: a sprite of zero bits hits no cell. -/
theorem zeroSpriteOnlySetsDirty : Obligations.ZeroSpriteOnlySetsDirty := by
  intro s x0 y0 k
  have hdraw : drawSprite x0 y0 (List.replicate k 0) s.pixel = (s.pixel, false) := by
    rw [drawSprite_eq, spriteCells_zero, List.foldl_nil]
  rw [hostDraw, draw_eq, hdraw]
  rfl

end Sys2Proof.Machine
